-- ==== Sys2Proof/Word.lean ====
section
/-!
DEFINITION. The word types of the BTC block: what the spec treats as bits (spec/10_state.md R22, spec/00_scope.md R12).
-/

namespace Sys2Proof

/-- An 8-bit value: a datum, an address byte, a command code, a result code, a StatusCode. -/
abbrev Byte := BitVec 8

/-- A 16-bit register: a length, a unit index, a count of bytes or units. -/
abbrev Half := BitVec 16

/-- A 32-bit register: an attempt counter, a limit, a settle delay. -/
abbrev Word := BitVec 32

/-- A 7-bit serial address, as it stands in a serial frame (R99). -/
abbrev SerAddr := BitVec 7

end Sys2Proof
end

