-- ==== Sys2Proof/Config.lean ====
section
/-!
DEFINITION. What is fixed for one machine: the block's constants (spec/00_scope.md R9 to R11), the form of the wire-byte
record (spec/30_encoding.md R111), the form of a Transport answer, and the OPEN parameters of the spec, which are opaque
constants: no proof can see their values.
-/

namespace Sys2Proof

/-- `SerEnc`, the configuration record of the decided wire bytes (R111). Its values stand in Decode.lean (`serEnc`). -/
structure SerEnc where
  probeByte    : Byte
  ewen         : List Byte
  writeByte0   : Byte
  writeOpBit   : Byte
  readByte0    : Byte
  readAddrMask : Byte
  readPad      : List Byte
  pollChunk    : List Byte
  idleByte     : Byte
deriving DecidableEq, Repr

/-- What the Transport may answer to a call (R13, R70 to R75). An answer of the wrong form for its call breaks the
call's shape and is treated as `err` (R76). -/
inductive Answer where
  /-- `Err`: the link is closed or the peer does not respond (R76). -/
  | err
  /-- A count: of `write`, `slaveWrite`, `bytesAvailable`. -/
  | count (n : Nat)
  /-- Received bytes: of `read`, `slaveRead`. -/
  | bytes (b : List Byte)
  /-- A StatusCode: of `getStatus`. -/
  | status (c : Byte)
  /-- Reply bytes and transferred count: of `transceive`. -/
  | reply (r : List Byte) (n : Nat)
deriving DecidableEq, Repr, Inhabited

namespace Config

/-- Bytes of the data buffer, indices 0..255 (R11, R30). -/
def dbufSize : Nat := 256

/-- Entries of the unit-status log (R32). -/
def unitstatSize : Nat := 128

/-- Entries of the transform table (R33). -/
def xlutSize : Nat := 256

/-- Reset defaults of the limits and lengths (R9, R22, R38). -/
def retryLimitDefault : Word := 25
def pageSizeDefault : Half := 8
def lenDefault : Half := 128
def pollLimitDefault : Word := 1000
def devSizeDefault : Byte := 128
def rxTargetDefault : Half := 128
def rxPollLimitDefault : Word := 300000000

/-- What every entry of UNITSTAT holds before a sweep attempts it (R32). -/
def unitNotAttempted : Byte := 0xFF

/-- Highest serial address plus one: addresses are 7 bits (R9, R25). -/
def serialCells : Nat := 128

/-- Longest PGWRITE buffer: every start address fits one byte (R151). -/
def pageReach : Nat := 256

/-- `XFORM`, the reference transform "uppercase" read as ASCII (R33). PRESUMED, as the spec itself marks it (G1);
unsafe: a claim about the reset contents of XLUT leans on it (log 26). -/
def xform (b : Byte) : Byte := if 0x61 ≤ b ∧ b ≤ 0x7A then b - 0x20 else b

/-- `settlePreDefault`, OPEN (R11, R22). DESIGN CHOICE: opaque; safe (log 4). -/
opaque settlePreDefault : Word

/-- `settlePostDefault`, OPEN (R11, R22). DESIGN CHOICE: opaque; safe (log 4). -/
opaque settlePostDefault : Word

/-- The StatusCodes for which `isBusy` holds at the model's start, OPEN (R141). DESIGN CHOICE: opaque; safe (log 3). -/
opaque busyCodes : List Byte

/-- The StatusCodes for which `isIdle` holds at the model's start, OPEN (R141). DESIGN CHOICE: opaque; safe (log 3). -/
opaque idleCodes : List Byte

/-- The StatusCodes for which `isAddrNacked` holds at the model's start, OPEN (R141). DESIGN CHOICE: opaque; safe (log 3). -/
opaque nackedCodes : List Byte

/-- The n-th free draw of a Transport answer, used where the script of answers has run out (R18, U2). DESIGN CHOICE:
opaque; safe (log 2). -/
opaque freeAnswer : Nat → Answer

/-- The n-th free draw of a byte: what a host read of a never-written PEER, LAST_STATUS or DBUF byte returns (R39, U11), and
the peer of a host's own I2C frame while nothing has written PEER. DESIGN CHOICE: opaque; safe (log 9, log 17). -/
opaque freeByte : Nat → Byte

end Config

end Sys2Proof
end

