-- ==== Sys2Proof/Syntax.lean ====
section
/-!
DEFINITION. The syntax of the two layers of encoding (spec/30_encoding.md R90): the ten command codes and the nine wire
frames, one constructor for each row of spec/opcode_table.json, and the channel that carries each.
-/

namespace Sys2Proof

/-- The channels of the opcode table's "format" column. A frame is delimited by the call that carries it, never by its
content (R107), so the channel is part of what a decoder is given. -/
inductive Format where
  /-- CMD8: the byte the host writes to `CMD` (R91). -/
  | command
  /-- WIRE_I2C: the payload of `T.write` on the I2C-style connection (R94, R95). -/
  | i2c
  /-- WIRE_SER: the bytes sent by `T.transceive` on the serial connection (R99). -/
  | serial
  /-- WIRE_SER_RX: the reply bytes of the 4-byte read (R103). -/
  | serialReply
  /-- WIRE_SLAVE: the bytes of a frame on the slave connection (R106). -/
  | slave
deriving DecidableEq, Repr

/-- The connections on which wire frames travel: every channel but that of the command codes, which are written to `CMD`
and travel on no connection (R91, R107). -/
inductive Connection where
  | i2c
  | serial
  | serialReply
  | slave
deriving DecidableEq, Repr

/-- The channel of a connection's frames. -/
def Connection.format : Connection → Format
  | .i2c => .i2c
  | .serial => .serial
  | .serialReply => .serialReply
  | .slave => .slave

/-- The instructions: commands (operands are registers, R91) and wire frames (operands are in the bytes). -/
inductive Instr where
  /-- NOP, code 0x00 (R92). -/
  | nop
  /-- WAITRDY, code 0x01 (R131). -/
  | waitrdy
  /-- PGWRITE, code 0x02 (R152). -/
  | pgwrite
  /-- PGREAD, code 0x03 (R159). -/
  | pgread
  /-- SEWEN, code 0x10 (R171). -/
  | sewen
  /-- SWRITE, code 0x11 (R174). -/
  | swrite
  /-- SREAD, code 0x12 (R181). -/
  | sread
  /-- SSWEEPW, code 0x13 (R187). -/
  | ssweepw
  /-- SSWEEPR, code 0x14 (R188). -/
  | ssweepr
  /-- RXFRAME, code 0x20 (R212). -/
  | rxframe
  /-- I2C_PROBE: one byte, the address 0 (R94). -/
  | i2cProbe
  /-- I2C_PAGE: `[start] ++ payload` (R95). -/
  | i2cPage (start : Byte) (payload : List Byte)
  /-- SER_EWEN: write-enable (R100). -/
  | serEwen
  /-- SER_WRITE: address and datum (R101). -/
  | serWrite (a : SerAddr) (d : Byte)
  /-- SER_READ: address (R102). -/
  | serRead (a : SerAddr)
  /-- SER_POLL: ten zero bytes (R104). -/
  | serPoll
  /-- SER_IDLE: the cleanup byte (R105). -/
  | serIdle
  /-- SER_READ_REPLY: the value that the four reply bytes of SER_READ carry (R103). -/
  | serReadReply (v : Byte)
  /-- SLAVE_FRAME: the bytes of one frame (R106). -/
  | slaveFrame (bytes : List Byte)
deriving DecidableEq, Repr

/-- The channel that carries an instruction (the table's "format"). -/
def Instr.format : Instr → Format
  | .nop | .waitrdy | .pgwrite | .pgread | .sewen | .swrite | .sread | .ssweepw | .ssweepr | .rxframe => .command
  | .i2cProbe | .i2cPage _ _ => .i2c
  | .serEwen | .serWrite _ _ | .serRead _ | .serPoll | .serIdle => .serial
  | .serReadReply _ => .serialReply
  | .slaveFrame _ => .slave

end Sys2Proof
end

