-- ==== Sys2Proof/WellFormed.lean ====
section
/-!
DEFINITION. Which terms of `Instr` are instructions of the block: the checks of the PageDescriptor (spec/20_memory.md R67,
spec/30_encoding.md R95, R96) and of the slave frame's length (spec/43_slave_frame.md R211).
-/

namespace Sys2Proof

/-- A page frame: at least one payload byte, a start address that is a multiple of the page size, and a page that ends
within the reach of the address byte (R67, R96, R151). DEDUCED from `start = idx × PAGE_SIZE` and `LEN ≤ 256`; safe
(log 32). -/
def pageFrameOk (start : Byte) (payload : List Byte) : Bool :=
  decide (1 ≤ payload.length) && decide (start.toNat % payload.length = 0)
    && decide (start.toNat + payload.length ≤ Config.pageReach)

/-- A slave frame: 1..`DBUF_SIZE` bytes (R211). -/
def slaveFrameOk (bytes : List Byte) : Bool :=
  decide (1 ≤ bytes.length) && decide (bytes.length ≤ Config.dbufSize)

/-- The well-formed instructions. Every command and every serial frame is well formed: its fields have the widths of the
encoding. -/
def Instr.wellFormed : Instr → Bool
  | .nop => true
  | .waitrdy => true
  | .pgwrite => true
  | .pgread => true
  | .sewen => true
  | .swrite => true
  | .sread => true
  | .ssweepw => true
  | .ssweepr => true
  | .rxframe => true
  | .i2cProbe => true
  | .i2cPage start payload => pageFrameOk start payload
  | .serEwen => true
  | .serWrite _ _ => true
  | .serRead _ => true
  | .serPoll => true
  | .serIdle => true
  | .serReadReply _ => true
  | .slaveFrame bytes => slaveFrameOk bytes

end Sys2Proof
end

