-- ==== Sys2Proof/Decode.lean ====
section
/-!
DEFINITION. The decoder, total on any bytes of any channel and refusing by name, and after it the encoder, both written
from spec/30_encoding.md R91 to R106; and the reader of opcode-table words.
-/

namespace Sys2Proof

/-- The decided wire bytes (R111; the fields `writeOpBit`, `readPad`, `pollChunk` are given by the source, the others are
the spec's decisions D7, D15, D19). -/
def serEnc : SerEnc where
  probeByte    := 0x00
  ewen         := [0x02, 0x7F]
  writeByte0   := 0x02
  writeOpBit   := 0x80
  readByte0    := 0x03
  readAddrMask := 0x7F
  readPad      := [0x00, 0x00]
  pollChunk    := List.replicate 10 0x00
  idleByte     := 0x00

/-- Why bytes are no instruction of their channel. -/
inductive DecodeError where
  /-- A command code that names no command (R93). -/
  | reservedCommand (code : Byte)
  /-- The number of bytes is that of no instruction of the channel. -/
  | wrongLength (n : Nat)
  /-- A one-byte I2C payload other than the probe (R94). -/
  | notAProbe
  /-- A page frame whose start address is no multiple of its payload length, or that reaches past address 255 (R67, R96). -/
  | misalignedPage
  /-- A serial frame that the block never emits (R112). -/
  | foreignSerialFrame
deriving DecidableEq, Repr

/-- The command codes (R91); every other code is reserved (R93). -/
def decodeCommand (c : Byte) : Except DecodeError Instr :=
  match c with
  | 0x00#8 => .ok .nop
  | 0x01#8 => .ok .waitrdy
  | 0x02#8 => .ok .pgwrite
  | 0x03#8 => .ok .pgread
  | 0x10#8 => .ok .sewen
  | 0x11#8 => .ok .swrite
  | 0x12#8 => .ok .sread
  | 0x13#8 => .ok .ssweepw
  | 0x14#8 => .ok .ssweepr
  | 0x20#8 => .ok .rxframe
  | c => .error (.reservedCommand c)

/-- The value that the reply bytes `r2`, `r3` of a read carry: "the exact shift-and-mask arithmetic" (R103). -/
def readReplyValue (r2 r3 : Byte) : Byte := ((r2 <<< 1) &&& 0xFE#8) ||| ((r3 >>> 7) &&& 0x01#8)

/-- The payload of a `T.write` (R94, R95): one byte is the probe, more are a page frame. -/
def decodeI2c : List Byte → Except DecodeError Instr
  | [] => .error (.wrongLength 0)
  | [b] => if b = serEnc.probeByte then .ok .i2cProbe else .error .notAProbe
  | start :: p :: rest =>
    if pageFrameOk start (p :: rest) then .ok (.i2cPage start (p :: rest)) else .error .misalignedPage

/-- The bytes of a `T.transceive`, told apart by their number (R107) and then by their fixed bits (R99 to R105). -/
def decodeSerial : List Byte → Except DecodeError Instr
  | [b] => if b = serEnc.idleByte then .ok .serIdle else .error .foreignSerialFrame
  | [b0, b1] => if [b0, b1] = serEnc.ewen then .ok .serEwen else .error .foreignSerialFrame
  | [b0, b1, d] =>
    if b0 = serEnc.writeByte0 ∧ b1 &&& serEnc.writeOpBit = serEnc.writeOpBit
    then .ok (.serWrite (b1.setWidth 7) d) else .error .foreignSerialFrame
  | [b0, b1, p0, p1] =>
    if b0 = serEnc.readByte0 ∧ b1 &&& serEnc.readAddrMask = b1 ∧ [p0, p1] = serEnc.readPad
    then .ok (.serRead (b1.setWidth 7)) else .error .foreignSerialFrame
  | bs => if bs = serEnc.pollChunk then .ok .serPoll else .error .foreignSerialFrame

/-- The four reply bytes of a read (R103); only bytes 2 and 3 matter, and no reply is rejected by content (R182). -/
def decodeSerialReply : List Byte → Except DecodeError Instr
  | [_, _, r2, r3] => .ok (.serReadReply (readReplyValue r2 r3))
  | bs => .error (.wrongLength bs.length)

/-- A frame of the slave connection: raw bytes, no header and no terminator (R106). -/
def decodeSlave (bs : List Byte) : Except DecodeError Instr :=
  if slaveFrameOk bs then .ok (.slaveFrame bs) else .error (.wrongLength bs.length)

/-- The decoder: a channel and its bytes to the instruction they are (R107). -/
def decode : Format → List Byte → Except DecodeError Instr
  | .command, [c] => decodeCommand c
  | .command, bs => .error (.wrongLength bs.length)
  | .i2c, bs => decodeI2c bs
  | .serial, bs => decodeSerial bs
  | .serialReply, bs => decodeSerialReply bs
  | .slave, bs => decodeSlave bs

/-- The code of a command (R91). A frame has none: 0 stands in its place and is never used. -/
def Instr.code : Instr → Byte
  | .nop => 0x00
  | .waitrdy => 0x01
  | .pgwrite => 0x02
  | .pgread => 0x03
  | .sewen => 0x10
  | .swrite => 0x11
  | .sread => 0x12
  | .ssweepw => 0x13
  | .ssweepr => 0x14
  | .rxframe => 0x20
  | .i2cProbe | .i2cPage _ _ | .serEwen | .serWrite _ _ | .serRead _ | .serPoll | .serIdle
  | .serReadReply _ | .slaveFrame _ => 0x00

/-- The bytes of an instruction on its channel (R91, R94, R95, R99 to R106). The bits that R103 ignores are 0 in the
encoded read reply. -/
def encode : Instr → List Byte
  | .i2cProbe => [serEnc.probeByte]
  | .i2cPage start payload => start :: payload
  | .serEwen => serEnc.ewen
  | .serWrite a d => [serEnc.writeByte0, serEnc.writeOpBit ||| a.setWidth 8, d]
  | .serRead a => serEnc.readByte0 :: (a.setWidth 8 &&& serEnc.readAddrMask) :: serEnc.readPad
  | .serPoll => serEnc.pollChunk
  | .serIdle => [serEnc.idleByte]
  | .serReadReply v => [0x00, 0x00, v >>> 1, v <<< 7]
  | .slaveFrame bytes => bytes
  | .nop => [Instr.nop.code]
  | .waitrdy => [Instr.waitrdy.code]
  | .pgwrite => [Instr.pgwrite.code]
  | .pgread => [Instr.pgread.code]
  | .sewen => [Instr.sewen.code]
  | .swrite => [Instr.swrite.code]
  | .sread => [Instr.sread.code]
  | .ssweepw => [Instr.ssweepw.code]
  | .ssweepr => [Instr.ssweepr.code]
  | .rxframe => [Instr.rxframe.code]

/-- The bytes of a word of `n` bytes, the most significant byte first: the opcode table writes a frame as one number whose
most significant byte is the first byte on the wire (R100 to R103 beside the table's bit numbers; log 19). -/
def bytesOfWord : Nat → Nat → List Byte
  | 0, _ => []
  | n + 1, w => BitVec.ofNat 8 (w >>> (8 * n)) :: bytesOfWord n w

/-- The connections on which a table row of two or more bytes can stand, in the order in which they are tried. DESIGN
CHOICE (a bare word does not name its channel, R107); unsafe (log 19). -/
def tableConnections : List Connection := [.serial, .serialReply, .i2c]

/-- The first of the given connections on which the bytes are an instruction. -/
def firstDecoding (bs : List Byte) : List Connection → Option (Connection × Instr)
  | [] => none
  | c :: cs =>
    match decode c.format bs with
    | .ok i => some (c, i)
    | .error _ => firstDecoding bs cs

/-- The instruction the decoder reads from a word of the opcode table: a row of one byte is a command code, a longer row is
a frame (log 19). -/
def decodeTableWord (nbits w : Nat) : Option Instr :=
  if nbits % 8 ≠ 0 then none
  else if nbits = 8 then
    match decode .command (bytesOfWord 1 w) with
    | .ok i => some i
    | .error _ => none
  else (firstDecoding (bytesOfWord (nbits / 8) w) tableConnections).map (·.2)

end Sys2Proof
end

