-- ==== Sys2Proof/Machine/State.lean ====
section
/-!
DEFINITION. The state of the machine as plain data: the host-visible registers, the buffers, the sequencer, the select
shadow (spec/10_state.md R20 to R34), the bus history (R36), and the model's own inputs and parameters. The reasons a
step can stop, and the state after reset (R38).
-/

namespace Sys2Proof.Machine

open Sys2Proof

/-- One Transport call with its arguments (spec/00_scope.md R13, spec/20_memory.md R71 to R75). -/
inductive Call where
  | write (peer : Byte) (payload : List Byte)
  | read (peer : Byte) (n : Nat)
  | getStatus (peer : Byte)
  | transceive (payload : List Byte) (deassertAfter : Bool)
  | bytesAvailable
  | slaveRead (n : Nat)
  | slaveWrite (payload : List Byte)
deriving DecidableEq, Repr

/-- One event of the bus history (R13, R36): a call with the answer the Transport gave, or a settle delay. -/
inductive Event where
  | call (c : Call) (a : Answer)
  | delay (d : Word)
deriving DecidableEq, Repr

/-- The shadow of the select signal (R34): 0, 1, or unknown after an `Err` (log 22). -/
inductive Sel where
  | deasserted
  | asserted
  | unknown
deriving DecidableEq, Repr

/-- The sequencer states (R27). -/
inductive Seq where
  | idle
  | ackProbe
  | ackStatus
  | pgSend
  | rdProbe
  | rdBulk
  | enableWrites
  | wrCmd
  | wrPoll
  | wrCleanup
  | rdCmd
  | sweepNext
  | receiving
  | complete
  | responding
deriving DecidableEq, Repr

/-- The result kinds (spec/60_exceptions.md R230). -/
inductive Kind where
  | success
  | transportError
  | busyTimeout
  | protocolViolation
  | partialFailure
deriving DecidableEq, Repr

/-- What is next while `SEQ` is `Responding`: "pre-delay, reply, post-delay pending" (R27, R212). -/
inductive ReplyPhase where
  | preDelay
  | reply
  | postDelay
deriving DecidableEq, Repr

/-- `resetWhileBusy` (spec/70_reset_and_hazards.md R272, U14). -/
inductive ResetPolicy where
  | refuse
  | abandon
deriving DecidableEq, Repr

/-- The buffers that HostBufRead and HostBufWrite reach (R21). -/
inductive BufSpace where
  | dbuf
  | unitstat
  | xlut
deriving DecidableEq, Repr

/-- What the host does next (R21, R270, R282, R316; log 12). -/
inductive Input where
  /-- `HostRead(n)` of register number `n`. -/
  | hostRead (n : Nat)
  /-- `HostWrite(n, v)`; a value wider than the register loses its upper bits (log 15). -/
  | hostWrite (n : Nat) (v : Word)
  /-- `HostBufRead(space, i)`. -/
  | bufRead (sp : BufSpace) (i : Nat)
  /-- `HostBufWrite(space, i, v)`. -/
  | bufWrite (sp : BufSpace) (i : Nat) (v : Byte)
  /-- The host itself hands bytes to a connection (R282, R288; log 17). -/
  | wire (c : Connection) (bytes : List Byte)
  /-- The host itself makes a Transport call, of any kind and with any arguments (R282; log 17). -/
  | transport (c : Call)
  /-- The host polls `STATUS` until `DONE` = 1 (R316). -/
  | waitDone
  /-- The host leaves the next move to the sequencer. -/
  | seqTurn
  /-- `RST` is asserted and released: one act, so that no host access falls under an asserted `RST` (R270, R272; DESIGN
  CHOICE, unsafe, log 37). -/
  | rst
deriving DecidableEq, Repr

/-- A memory: (index, byte) entries, indices strictly rising, no entry equal to what an unlisted index reads as. -/
abbrev Memory := List Host.Cell

/-- The model parameters of the spec (R18), constant in every run: no step writes them. -/
structure Params where
  /-- The StatusCodes for which `isBusy` holds (R141; log 3). -/
  busyCodes : List Byte
  /-- The StatusCodes for which `isIdle` holds (R141; log 3). -/
  idleCodes : List Byte
  /-- The StatusCodes for which `isAddrNacked` holds (R141; log 3). -/
  nackedCodes : List Byte
  /-- `resetWhileBusy` (R272; log 5). -/
  resetWhileBusy : ResetPolicy
  /-- `pgreadProbeReadsStatus` (U4; log 6). -/
  pgreadProbeReadsStatus : Bool
  /-- `cleanupAfterCmdFailure` (U5; log 6). -/
  cleanupAfterCmdFailure : Bool
deriving DecidableEq, Repr

/-- The parameter registers 2 to 13 (R22, R25); the latches have the same form (R31). -/
structure ParamRegs where
  peer        : Byte
  retryLimit  : Word
  pageSize    : Half
  len         : Half
  saddr       : Byte
  sdata       : Byte
  pollLimit   : Word
  devSize     : Byte
  rxTarget    : Half
  rxPollLimit : Word
  settlePre   : Word
  settlePost  : Word
deriving DecidableEq, Repr

/-- The result registers 16 to 23 (R22, R26). -/
structure ResultRegs where
  result     : Byte
  cause      : Byte
  unit       : Half
  attempts   : Word
  lastStatus : Byte
  flags      : Byte
  failcnt    : Half
  xfer       : Half
deriving DecidableEq, Repr

/-- The whole machine. -/
structure State where
  /-- CMD, register 0 (R23); while BUSY it names the running command. -/
  cmd : Byte
  /-- STATUS, register 1: bit 0 BUSY, bit 1 DONE (R24). -/
  status : Byte
  /-- Registers 2 to 13. -/
  regs : ParamRegs
  /-- Registers 16 to 23. -/
  res : ResultRegs
  /-- DBUF (R30); an unlisted byte is one that nothing has written since reset (R39). -/
  dbuf : Memory
  /-- UNITSTAT (R32); an unlisted entry is 0xFF. -/
  unitstat : Memory
  /-- XLUT (R33); an unlisted entry is the reset table's. -/
  xlut : Memory
  /-- SEQ (R27). -/
  seq : Seq
  /-- Attempts made in the current bounded loop (R28, R310). -/
  att : Nat
  /-- Current page index or serial address (R28). -/
  idx : Nat
  /-- bytesFilled of the frame being received (R28). -/
  filled : Nat
  /-- The parameter latches (R31). -/
  latch : ParamRegs
  /-- SEL (R34). -/
  sel : Sel
  /-- `lastStatus` of AckWait (R132). -/
  ackStatus : Byte
  /-- `statusValid` of AckWait (R132). -/
  ackValid : Bool
  /-- `outcome` of WriteByte (R174). -/
  outcome : Kind
  /-- `fails` of a sweep (R187). -/
  fails : Nat
  /-- `first` of a sweep: the lowest failing address and its kind (R187). -/
  first : Option (Nat × Kind)
  /-- `want` of RXFRAME: the length of the burst about to be read, 0 when a poll is next (R212; log 25). -/
  want : Nat
  /-- What is next in `Responding` (R27; log 25). -/
  phase : ReplyPhase
  /-- Has anything written PEER since reset (R39; the model's own, log 7). -/
  peerWritten : Bool
  /-- Has anything written LAST_STATUS since reset (R39; the model's own, log 8). -/
  lastStatusWritten : Bool
  /-- The bus history H, oldest event first (R36). -/
  hist : List Event
  /-- The Transport answers to come (R18; the model's own, log 2). -/
  answers : List Answer
  /-- How many free values have been drawn (the model's own, log 28). -/
  draws : Nat
  /-- What the host does next (the model's own, log 12). -/
  inputs : List Input
  /-- What host reads have returned, oldest first (the model's own, log 12). -/
  reads : List Word
  /-- The model parameters (R18). -/
  params : Params
deriving DecidableEq, Repr

/-- Why the machine stops with a fault: the spec's own treatment `fault`, "a sticky mark that voids every claim about the
run" (spec/93_implementation_defined.md, Part 1). -/
inductive Fault where
  /-- The host touched the block while BUSY = 1 other than by HostRead(STATUS) (R281, U10). Raised by a host access and by
  the issue of a command. Safe: the run ends. -/
  | hostWhileBusy
  /-- The host drove the Transport itself while a command ran (R282). Raised by the host's own frames and calls. Safe: the
  run ends. -/
  | foreignTransaction
  /-- A command would hand a never-written PEER to the Transport (R39, U11, R275). Raised by the issue of WAITRDY, PGWRITE
  and PGREAD, and, in states that no run reaches, by their calls. Safe: the run ends. -/
  | unwrittenPeer
  /-- A command would transmit a never-written DBUF byte (R39, R151, R186, R275). Raised by the issue of PGWRITE and
  SSWEEPW, and, in states that no run reaches, by the frames that carry DBUF bytes. Safe: the run ends. -/
  | unwrittenDbuf
  /-- A host access to an index outside DBUF, UNITSTAT or XLUT, which does not exist (R30, R32, R33). Safe: the run ends. -/
  | noSuchElement
deriving DecidableEq, Repr

/-- Why a step is refused. -/
inductive Refusal where
  /-- The instruction has no meaning in this model. Raised by no arm: every instruction has its meaning. Safe. -/
  | notModelled (mnemonic : String)
  /-- A wire frame while the sequencer is at another state than the one that sends it (R79, R282: no second agent issues
  Transport calls). Raised by the frames. Safe: the run ends. -/
  | frameOutOfTurn
  /-- RST while BUSY = 1 under `resetWhileBusy` = refuse: "the model has no such step" (R272, U14). Safe: the run ends. -/
  | resetWhileBusy
deriving DecidableEq, Repr

/-- The reset values of registers 2 to 13 (R22, R38). PEER is unspecified: DESIGN CHOICE 0, unsafe, and never observable
before it is written (log 7). -/
def ParamRegs.reset : ParamRegs where
  peer        := 0
  retryLimit  := Config.retryLimitDefault
  pageSize    := Config.pageSizeDefault
  len         := Config.lenDefault
  saddr       := 0
  sdata       := 0
  pollLimit   := Config.pollLimitDefault
  devSize     := Config.devSizeDefault
  rxTarget    := Config.rxTargetDefault
  rxPollLimit := Config.rxPollLimitDefault
  settlePre   := Config.settlePreDefault
  settlePost  := Config.settlePostDefault

/-- The latches at reset. DESIGN CHOICE 0 (no rule gives them a value and no step reads one before a command start writes
it); unsafe (log 11). -/
def ParamRegs.zero : ParamRegs where
  peer        := 0
  retryLimit  := 0
  pageSize    := 0
  len         := 0
  saddr       := 0
  sdata       := 0
  pollLimit   := 0
  devSize     := 0
  rxTarget    := 0
  rxPollLimit := 0
  settlePre   := 0
  settlePost  := 0

/-- The reset values of registers 16 to 23 (R22, R38). LAST_STATUS is unspecified: DESIGN CHOICE 0, unsafe, and never
observable before it is written (log 8). -/
def ResultRegs.reset : ResultRegs where
  result     := 0
  cause      := 0
  unit       := 0
  attempts   := 0
  lastStatus := 0
  flags      := 0
  failcnt    := 0
  xfer       := 0

/-- The parameters of the machine that starts: the spec's defaults, and opaque predicates (R141, R272, U4, U5). -/
def Params.initial : Params where
  busyCodes              := Config.busyCodes
  idleCodes              := Config.idleCodes
  nackedCodes            := Config.nackedCodes
  resetWhileBusy         := .refuse
  pgreadProbeReadsStatus := false
  cleanupAfterCmdFailure := false

/-- The machine right after reset (R38, R270), at the model's start: empty history, no input, no scripted answer. -/
def State.reset : State where
  cmd               := 0x00
  status            := 0x00
  regs              := .reset
  res               := .reset
  dbuf              := []
  unitstat          := []
  xlut              := []
  seq               := .idle
  att               := 0
  idx               := 0
  filled            := 0
  latch             := .zero
  sel               := .deasserted
  ackStatus         := 0
  ackValid          := false
  outcome           := .success
  fails             := 0
  first             := none
  want              := 0
  phase             := .preDelay
  peerWritten       := false
  lastStatusWritten := false
  hist              := []
  answers           := []
  draws             := 0
  inputs            := []
  reads             := []
  params            := .initial

end Sys2Proof.Machine
end

