-- ==== Sys2Proof/Machine/Flags.lean ====
section
/-!
DEFINITION. The bits of STATUS and FLAGS (spec/10_state.md R24, R29), the codes of the result kinds
(spec/60_exceptions.md R230), the four-way classification of a StatusCode (spec/40_ackpoller.md R133) and the busy-poll
test (spec/30_encoding.md R104).
-/

namespace Sys2Proof.Machine

open Sys2Proof

/-- `STATUS` while a command runs: BUSY alone (R24). -/
def statusBusy : Byte := 0x01

/-- `STATUS` after a command has ended: DONE alone (R24). -/
def statusDone : Byte := 0x02

/-- `BUSY`, bit 0 of STATUS (R24). -/
def State.busy (s : State) : Bool := s.status.getLsbD 0

/-- `DONE`, bit 1 of STATUS (R24). -/
def State.done (s : State) : Bool := s.status.getLsbD 1

/-- What a read of STATUS or FLAGS gives: bits 7:2 read 0 (R22, R24, R29; log 35). -/
def lowTwoBits (b : Byte) : Byte := b &&& 0x03

/-- `SUCCEEDED`, bit 0 of FLAGS (R29). -/
def State.succeeded (s : State) : Bool := s.res.flags.getLsbD 0

/-- `LAST_STATUS_VALID`, bit 1 of FLAGS (R29). -/
def State.lastStatusValid (s : State) : Bool := s.res.flags.getLsbD 1

/-- FLAGS when a command ends with kind `k`: SUCCEEDED = 1 iff the kind is Success, LAST_STATUS_VALID as the command left
it (R29, R238). -/
def flagsAtEnd (flags : Byte) (k : Kind) : Byte :=
  (flags &&& 0x02) ||| (if k = .success then 0x01 else 0x00)

/-- FLAGS when a wait ends: LAST_STATUS_VALID ← `valid` (R131, R152). -/
def flagsWithValid (flags : Byte) (valid : Bool) : Byte :=
  (flags &&& 0x01) ||| (if valid then 0x02 else 0x00)

/-- The numeric code of a result kind (R230). -/
def Kind.code : Kind → Byte
  | .success => 0
  | .transportError => 1
  | .busyTimeout => 2
  | .protocolViolation => 3
  | .partialFailure => 4

/-- The branches of the AckPoller's classification, in its order (R133). -/
inductive StatusClass where
  | busy
  | idle
  | ack
  | nack
deriving DecidableEq, Repr

/-- `isBusy` (R141). -/
def Params.isBusy (p : Params) (c : Byte) : Bool := p.busyCodes.contains c

/-- `isIdle` (R141). -/
def Params.isIdle (p : Params) (c : Byte) : Bool := p.idleCodes.contains c

/-- `isAddrNacked` (R141). -/
def Params.isAddrNacked (p : Params) (c : Byte) : Bool := p.nackedCodes.contains c

/-- The classification: busy before idle before acknowledged (R133). -/
def classify (p : Params) (c : Byte) : StatusClass :=
  if p.isBusy c then .busy
  else if p.isIdle c then .idle
  else if !p.isAddrNacked c then .ack
  else .nack

/-- The busy-poll test: at least one received byte is nonzero (R104, R311). -/
def anyNonzero (bs : List Byte) : Bool := bs.any (· != 0)

end Sys2Proof.Machine
end

