-- ==== Sys2Proof/Machine/Ops.lean ====
section
/-!
DEFINITION. The named operations over the buffers (spec/20_memory.md R60, R84), the Transport call (R70 to R76), the start
of a command (spec/10_state.md R23, R26, R31; spec/44_common_semantics.md R318) and its end, which is also how an error is
taken (spec/60_exceptions.md R238): the block has no traps, an "exception" is the early end of a command with a result
kind; and reset (spec/70_reset_and_hazards.md R270). There is no return from an exception: "the host returns by starting
the next command" (R239), which is `State.start`.
-/

namespace Sys2Proof.Machine

open Sys2Proof

/-- What a step answers. -/
abbrev Out := Host.Outcome State Fault Refusal

/-! Buffers. -/

/-- How many elements a buffer has (R30, R32, R33). -/
def BufSpace.size : BufSpace → Nat
  | .dbuf => Config.dbufSize
  | .unitstat => Config.unitstatSize
  | .xlut => Config.xlutSize

/-- What an unlisted element reads as: a DBUF byte has no value before something writes it (R39), a UNITSTAT entry is
0xFF (R32), an XLUT entry is the reset table's (R33). -/
def BufSpace.fresh : BufSpace → Nat → Option Byte
  | .dbuf, _ => none
  | .unitstat, _ => some Config.unitNotAttempted
  | .xlut, i => some (Config.xform (BitVec.ofNat 8 i))

/-- The listed byte at an index. -/
def memLookup : Memory → Nat → Option Byte
  | [], _ => none
  | (a, v) :: m, i => if a = i then some v else memLookup m i

/-- The list with the entry at `i` set to `v`. -/
def memPut : Memory → Nat → Byte → Memory
  | [], i, v => [(i, v)]
  | (a, w) :: m, i, v =>
    if i < a then (i, v) :: (a, w) :: m
    else if i = a then (i, v) :: m
    else (a, w) :: memPut m i v

/-- The list without an entry at `i`. -/
def memErase : Memory → Nat → Memory
  | [], _ => []
  | (a, w) :: m, i => if a = i then m else (a, w) :: memErase m i

/-- The element at an index of a buffer; none is a DBUF byte that nothing has written. -/
def bufGet (sp : BufSpace) (m : Memory) (i : Nat) : Option Byte :=
  match memLookup m i with
  | some v => some v
  | none => sp.fresh i

/-- One element written; the list stays canonical. -/
def bufPut (sp : BufSpace) (m : Memory) (i : Nat) (v : Byte) : Memory :=
  if sp.fresh i = some v then memErase m i else memPut m i v

/-- `MemWrite(DBUF, i, n, v)` (R13): the bytes go to `i`, `i + 1`, and so on. -/
def dbufWrite (m : Memory) (i : Nat) : List Byte → Memory
  | [] => m
  | b :: bs => dbufWrite (bufPut .dbuf m i b) (i + 1) bs

/-- `MemRead(DBUF, i, n)` (R13), lowest index first; none if one of the bytes was never written (R39). -/
def dbufRead (m : Memory) (i : Nat) : Nat → Option (List Byte)
  | 0 => some []
  | n + 1 =>
    match bufGet .dbuf m i, dbufRead m (i + 1) n with
    | some b, some bs => some (b :: bs)
    | _, _ => none

/-- `XLUT[b]`, total on all bytes (R33, R311). -/
def xlutAt (xlut : Memory) (b : Byte) : Byte := (bufGet .xlut xlut b.toNat).getD 0

/-- `for i in 0 .. target-1: DBUF[i] <- XLUT[DBUF[i]]` (R212, R218): every written byte below `target` is replaced by its
image. -/
def transformFrame (xlut dbuf : Memory) (target : Nat) : Memory :=
  dbuf.map fun c => if c.1 < target then (c.1, xlutAt xlut c.2) else c

/-- The canonical form of a buffer: indices strictly rising and inside the buffer, no entry equal to what an unlisted
element reads as. -/
def Memory.wf (sp : BufSpace) (m : Memory) : Bool :=
  decide (m.Pairwise fun x y => x.1 < y.1)
    && m.all fun c => decide (c.1 < sp.size) && decide (sp.fresh c.1 ≠ some c.2)

/-! The Transport. -/

/-- The shapes of the contract (R71 to R75). -/
def shapeOk : Call → Answer → Bool
  | .write _ p, .count n => decide (n ≤ p.length)
  | .read _ m, .bytes b => decide (b.length ≤ m)
  | .getStatus _, .status _ => true
  | .transceive p _, .reply r n => decide (n ≤ p.length) && decide (r.length = p.length)
  | .bytesAvailable, .count _ => true
  | .slaveRead m, .bytes b => decide (b.length ≤ m)
  | .slaveWrite p, .count n => decide (n ≤ p.length)
  | _, _ => false

/-- The Transport's next answer as it gives it: the script's, or a free draw (R18, U2; log 2). -/
def State.rawAnswer (s : State) : Answer :=
  match s.answers with
  | a :: _ => a
  | [] => Config.freeAnswer s.draws

/-- The answer as the block takes it: one that breaks its call's shape counts as `Err` (R76). -/
def State.answer (s : State) (c : Call) : Answer :=
  if shapeOk c s.rawAnswer then s.rawAnswer else .err

/-- SEL after a call (R34): a transceive that returns a value sets it to 0 iff `deassertAfter`, one that answers `Err`
makes it unknown, and no other call moves it; a short count is a value (log 33). -/
def selAfter (c : Call) (a : Answer) (sel : Sel) : Sel :=
  match c, a with
  | .transceive _ true, .reply _ _ => .deasserted
  | .transceive _ false, .reply _ _ => .asserted
  | .transceive _ _, _ => .unknown
  | _, _ => sel

/-- The state after a Transport call has answered (R13, R36): the event is in the history, with the answer as it was
given (log 21), and SEL follows R34. -/
def State.afterCall (s : State) (c : Call) : State :=
  { s with
    answers := s.answers.tail
    draws := if s.answers.isEmpty then s.draws + 1 else s.draws
    hist := s.hist ++ [.call c s.rawAnswer]
    sel := selAfter c (s.answer c) s.sel }

/-- `Delay(d)` (R13, R221): one event and no other effect. -/
def State.afterDelay (s : State) (d : Word) : State := { s with hist := s.hist ++ [.delay d] }

/-! The start and the end of a command. -/

/-- The result registers at a command start: all 0, but LAST_STATUS keeps its bits (R26). -/
def ResultRegs.cleared (r : ResultRegs) : ResultRegs := { ResultRegs.reset with lastStatus := r.lastStatus }

/-- The start of a command (R23, R26, R28, R31, R318): CMD holds the code, BUSY is set and DONE cleared, the parameters
are latched, the results and the loop variables cleared. -/
def State.start (s : State) (code : Byte) : State :=
  { s with
    cmd := code
    status := statusBusy
    latch := s.regs
    res := s.res.cleared
    att := 0
    idx := 0
    filled := 0
    ackStatus := 0
    ackValid := false
    outcome := .success
    fails := 0
    first := none
    want := 0
    phase := .preDelay }

/-- The end of a command with kind `k` (R238, R318): the result is written, SEQ is Idle, BUSY 0 and DONE 1. Nothing is
saved, no mode changes, no vector is taken. -/
def State.finish (s : State) (k : Kind) : State :=
  { s with
    res.result := k.code
    res.flags := flagsAtEnd s.res.flags k
    seq := .idle
    status := statusDone }

/-- `raise PartialFailure(CAUSE <- cause, UNIT <- unit)` (R234). -/
def State.finishPartial (s : State) (cause : Kind) (unit : Nat) : State :=
  State.finish { s with res.cause := cause.code, res.unit := BitVec.ofNat 16 unit } .partialFailure

/-- The issue of a command (R23): while BUSY = 1 it is a hazard violation (R281); a command whose launch premise fails is
refused as the fault `missing` before anything happens (R39, R275; log 10); otherwise the command starts, and its body runs
in the steps that follow (R3, R317; log 1). -/
def issue (code : Byte) (missing : Option Fault) (body : State → State) (s : State) : Out :=
  if s.busy then .fault .hostWhileBusy
  else
    match missing with
    | some f => .fault f
    | none => .next (body (s.start code))

/-- A command with a precondition, which reads only latched parameters: if it fails the command ends with
ProtocolViolation before any transport activity (R233, R318). -/
def State.checked (s : State) (legal : Bool) (body : State → State) : State :=
  if legal then body s else s.finish .protocolViolation

/-- A reserved command code (R93): the command starts and ends at once with ProtocolViolation. -/
def issueReserved (code : Byte) (s : State) : Out := issue code none (fun t => t.finish .protocolViolation) s

/-- A command may hand PEER to the Transport only when something has written it: one "that hands an unwritten `PEER` to the
Transport, is treated as `fault`" (R39, U11). Within the machine's invariant `launchFault` has stopped such a command
already, and this stop is not reached (log 10). -/
def withPeer (s : State) (k : Out) : Out := if s.peerWritten then k else .fault .unwrittenPeer

/-- The peer of an I2C frame of the host's own: what PEER names, a free value while nothing has written it (R39; log 17). -/
def State.ownPeer (s : State) : Byte := if s.peerWritten then s.regs.peer else Config.freeByte s.draws

/-- The state after `ownPeer` was read: a free value counts as drawn. -/
def State.ownPeerRead (s : State) : State := { s with draws := if s.peerWritten then s.draws else s.draws + 1 }

/-- A wire frame handed to the Transport. At the sequencer's own turn `k` says how it goes on with the answer (R313); with
no command in progress the host drives the Transport itself, and the block only sees the call (R282, R288); at any other
moment nobody may issue it (R79; log 17). -/
def handFrame (c : Call) (turn : Bool) (k : Answer → State → State) (s : State) : Out :=
  if turn then .next (k (s.answer c) (s.afterCall c))
  else if s.seq = .idle then .next (s.afterCall c)
  else .refused .frameOutOfTurn

/-- A frame of the I2C-style connection: a `T.write` of the payload, to the latched PEER at the sequencer's turn, to the
host's own peer otherwise (R94, R95). -/
def handI2c (payload : List Byte) (turn : Bool) (k : Answer → State → State) (s : State) : Out :=
  if turn then withPeer s (handFrame (.write s.latch.peer payload) true k s)
  else handFrame (.write s.ownPeer payload) false k s.ownPeerRead

/-! Reset. -/

/-- The reset state (R38), reached by RST: the history is not hardware and is kept, and so are the script, the inputs, what
the host has read and the parameters (log 29). -/
def State.afterReset (s : State) : State :=
  { State.reset with
    hist := s.hist
    answers := s.answers
    draws := s.draws
    inputs := s.inputs
    reads := s.reads
    params := s.params }

/-- RST (R270, R272): while a command runs it is refused or abandons the command, as the parameter says. That the signal
is asserted and released in one step is DESIGN CHOICE, unsafe (log 37). -/
def resetInput (s : State) : Out :=
  if s.busy ∧ s.params.resetWhileBusy = .refuse then .refused .resetWhileBusy else .next s.afterReset

end Sys2Proof.Machine
end

