-- ==== Sys2Proof/Machine/Operands.lean ====
section
/-!
DEFINITION. The operands of the commands: the latched parameters (spec/10_state.md R31), the preconditions
(R25, spec/60_exceptions.md R233), the effective indices into DBUF (spec/44_common_semantics.md R314) and the frames that
the sequencer assembles from them (spec/41_pagedwriter.md R164).
-/

namespace Sys2Proof.Machine

open Sys2Proof

/-- R151 1 to 3: `PAGE_SIZE` ≥ 1, `LEN` a multiple of it, `LEN` ≤ 256 and ≤ `DBUF_SIZE` (log 36). -/
def ParamRegs.pgwriteLegal (r : ParamRegs) : Bool :=
  decide (1 ≤ r.pageSize.toNat) && decide (r.len.toNat % r.pageSize.toNat = 0)
    && decide (r.len.toNat ≤ Config.pageReach) && decide (r.len.toNat ≤ Config.dbufSize)

/-- R158: 1 ≤ `LEN` ≤ `DBUF_SIZE`. -/
def ParamRegs.pgreadLegal (r : ParamRegs) : Bool :=
  decide (1 ≤ r.len.toNat) && decide (r.len.toNat ≤ Config.dbufSize)

/-- R173: `SADDR` is 7 bits. -/
def ParamRegs.saddrLegal (r : ParamRegs) : Bool := decide (r.saddr.toNat < Config.serialCells)

/-- R186: 1 ≤ `DEV_SIZE` ≤ 128. -/
def ParamRegs.devSizeLegal (r : ParamRegs) : Bool :=
  decide (1 ≤ r.devSize.toNat) && decide (r.devSize.toNat ≤ Config.serialCells)

/-- R211: 1 ≤ `RX_TARGET` ≤ `DBUF_SIZE`. -/
def ParamRegs.rxTargetLegal (r : ParamRegs) : Bool :=
  decide (1 ≤ r.rxTarget.toNat) && decide (r.rxTarget.toNat ≤ Config.dbufSize)

/-- `pageCount <- x[LEN] / x[PAGE_SIZE]` (R152). -/
def ParamRegs.pageCount (r : ParamRegs) : Nat := r.len.toNat / r.pageSize.toNat

/-- The launch premise of a command (R39, R151, R186, R275), at the registers it would latch: PEER written if the command
hands it over, and `DBUF[0..sent-1]` written; none means that the premise holds (log 10). The stop is R39's own: such a
command "is treated as `fault` (the model refuses the command with a named reason)". -/
def State.launchFault (s : State) (usesPeer : Bool) (sent : Nat) : Option Fault :=
  if usesPeer && !s.peerWritten then some .unwrittenPeer
  else if (dbufRead s.dbuf 0 sent).isNone then some .unwrittenDbuf
  else none

/-- `start <- idx * x[PAGE_SIZE]`, computed without wrap-around (R96). -/
def State.pageStart (s : State) : Nat := s.idx * s.latch.pageSize.toNat

/-- Is PGWRITE the running command: it is the command that calls AckWait once per page (R312; log 34). -/
def State.inPgwrite (s : State) : Bool := decide (s.cmd = Instr.pgwrite.code)

/-- Is PGREAD the running command (log 34). -/
def State.inPgread (s : State) : Bool := decide (s.cmd = Instr.pgread.code)

/-- Is SSWEEPW the running command (log 34). -/
def State.inSweepWrite (s : State) : Bool := decide (s.cmd = Instr.ssweepw.code)

/-- Is SSWEEPR the running command (log 34). -/
def State.inSweepRead (s : State) : Bool := decide (s.cmd = Instr.ssweepr.code)

/-- The address operand of WriteByte and ReadByte: the sweep's own address, else `SADDR` (R174, R181, R187, R188). -/
def State.unitAddr (s : State) : SerAddr :=
  if s.inSweepWrite || s.inSweepRead then BitVec.ofNat 7 s.idx else s.latch.saddr.setWidth 7

/-- The data operand of WriteByte: `DBUF[a]` in a sweep, else `SDATA` (R174, R187); none is a never-written byte. -/
def State.unitData (s : State) : Option Byte :=
  if s.inSweepWrite then bufGet .dbuf s.dbuf s.idx else some s.latch.sdata

/-- What the sequencer does next: hand over a wire frame, or one of the moves that send none (R27, R313). -/
inductive Move where
  /-- No command in progress. -/
  | rest
  /-- Hand this frame to the Transport. -/
  | frame (i : Instr)
  /-- The frame holds a byte that nothing has written. -/
  | stop (f : Fault)
  /-- `T.getStatus`. -/
  | readStatus
  /-- `T.read`. -/
  | readBulk
  /-- Between two addresses of a sweep. -/
  | nextUnit
  /-- `T.bytesAvailable`. -/
  | pollBacklog
  /-- `T.slaveRead`. -/
  | readBurst
  /-- The transform. -/
  | transform
  /-- `Delay(SETTLE_PRE)`. -/
  | delayPre
  /-- `Delay(SETTLE_POST)`. -/
  | delayPost
deriving DecidableEq, Repr

/-- The page frame of page `idx`, assembled from DBUF at the moment of sending (R152, R164). -/
def State.pageMove (s : State) : Move :=
  match dbufRead s.dbuf s.pageStart s.latch.pageSize.toNat with
  | some payload => .frame (.i2cPage (BitVec.ofNat 8 s.pageStart) payload)
  | none => .stop .unwrittenDbuf

/-- The write frame of the current unit (R174). -/
def State.writeMove (s : State) : Move :=
  match s.unitData with
  | some d => .frame (.serWrite s.unitAddr d)
  | none => .stop .unwrittenDbuf

/-- The reply frame (R212). -/
def State.replyMove (s : State) : Move :=
  match dbufRead s.dbuf 0 s.latch.rxTarget.toNat with
  | some bytes => .frame (.slaveFrame bytes)
  | none => .stop .unwrittenDbuf

/-- The next move, by SEQ (R27: "about to ..."). -/
def State.nextMove (s : State) : Move :=
  match s.seq with
  | .idle => .rest
  | .ackProbe => .frame .i2cProbe
  | .ackStatus => .readStatus
  | .pgSend => s.pageMove
  | .rdProbe => .frame .i2cProbe
  | .rdBulk => .readBulk
  | .enableWrites => .frame .serEwen
  | .wrCmd => s.writeMove
  | .wrPoll => .frame .serPoll
  | .wrCleanup => .frame .serIdle
  | .rdCmd => .frame (.serRead s.unitAddr)
  | .sweepNext => .nextUnit
  | .receiving => if s.want = 0 then .pollBacklog else .readBurst
  | .complete => .transform
  | .responding =>
    match s.phase with
    | .preDelay => .delayPre
    | .reply => s.replyMove
    | .postDelay => .delayPost

end Sys2Proof.Machine
end

