-- ==== Sys2Proof/Machine/Ack.lean ====
section
/-!
DEFINITION. The AckPoller (spec/40_ackpoller.md): the command WAITRDY, the wait AckWait that WAITRDY and PGWRITE share, the
probe frame, and the status read. AckWait ends into the next page of PGWRITE (spec/41_pagedwriter.md R152), so the page
loop's own moves stand here too. NOP (spec/30_encoding.md R92) opens the file.
-/

namespace Sys2Proof.Machine

open Sys2Proof

/-- NOP: no Transport call; ends at once with Success and all other result registers 0, LAST_STATUS among them (R92; R26
keeps its bits at the start only; log 38). -/
def execNop (s : State) : Out :=
  issue Instr.nop.code none
    (fun t => State.finish { t with res.lastStatus := 0, lastStatusWritten := true } .success) s

/-- The results of a wait: ATTEMPTS, LAST_STATUS only if a status was read, LAST_STATUS_VALID (R131, R152; log 23). -/
def State.ackResults (s : State) : State :=
  { s with
    res.attempts := BitVec.ofNat 32 s.att
    res.lastStatus := if s.ackValid then s.ackStatus else s.res.lastStatus
    res.flags := flagsWithValid s.res.flags s.ackValid
    lastStatusWritten := s.lastStatusWritten || s.ackValid }

/-- PGWRITE aborts at the current page: XFER ← idx, PartialFailure with the cause and the page index (R153, R154). -/
def State.pageAborted (s : State) (cause : Kind) : State :=
  State.finishPartial { s with res.xfer := BitVec.ofNat 16 s.idx } cause s.idx

/-- The current page is transmitted and acknowledged: the next page, or the end with XFER ← pageCount (R152, R313). -/
def State.pageDone (s : State) : State :=
  if s.idx + 1 < s.latch.pageCount then { s with idx := s.idx + 1, seq := .pgSend }
  else State.finish { s with res.xfer := BitVec.ofNat 16 s.latch.pageCount } .success

/-- AckWait returns with kind `k` to the command that called it (R131, R152). -/
def State.ackEnd (s : State) (k : Kind) : State :=
  if s.ackResults.inPgwrite then
    if k = .success then s.ackResults.pageDone else s.ackResults.pageAborted k
  else s.ackResults.finish k

/-- AckWait begins: no attempt made, no status read; with a limit of 0 it ends at once with BusyTimeout (R132, R136). -/
def State.ackBegin (s : State) : State :=
  let t := { s with att := 0, ackValid := false }
  if 0 < t.latch.retryLimit.toNat then { t with seq := .ackProbe } else t.ackEnd .busyTimeout

/-- WAITRDY (R131): every operand value is legal; PEER is used unless no attempt is allowed (R136, R275). -/
def execWaitrdy (s : State) : Out :=
  issue Instr.waitrdy.code (s.launchFault (decide (0 < s.regs.retryLimit.toNat)) 0) State.ackBegin s

/-- The attempt did not confirm readiness: the next attempt if one is left, else BusyTimeout (R132, R135). -/
def State.ackRetry (s : State) : State :=
  if s.att < s.latch.retryLimit.toNat then { s with seq := .ackProbe } else s.ackEnd .busyTimeout

/-- The probe of an AckWait attempt has answered (R132, R134). -/
def State.ackProbed (a : Answer) (s : State) : State :=
  let t := { s with att := s.att + 1 }
  if a = .count 1 then { t with seq := .ackStatus } else t.ackEnd .transportError

/-- The probe of PGREAD has answered (R160; with `pgreadProbeReadsStatus` one status read follows, U4). -/
def State.rdProbed (a : Answer) (s : State) : State :=
  if a = .count 1 then
    { s with seq := if s.params.pgreadProbeReadsStatus then .ackStatus else .rdBulk }
  else s.finish .transportError

/-- A probe has answered: in an AckWait attempt (R132), or before PGREAD's bulk read (R160). -/
def State.probeAnswered (a : Answer) (s : State) : State :=
  if s.seq = .rdProbe then s.rdProbed a else s.ackProbed a

/-- I2C_PROBE (R94): one byte to PEER, in an AckWait attempt (R132), as the probe of PGREAD (R160), or by the host. -/
def execI2cProbe (s : State) : Out :=
  handI2c (encode .i2cProbe) (decide (s.seq = .ackProbe ∨ s.seq = .rdProbe)) State.probeAnswered s

/-- A StatusCode was read in an AckWait attempt (R132, R133). -/
def State.ackClassified (c : Byte) (s : State) : State :=
  let t := { s with ackStatus := c, ackValid := true }
  match classify s.params c with
  | .ack => t.ackEnd .success
  | .busy => t.ackRetry
  | .idle => t.ackRetry
  | .nack => t.ackRetry

/-- `T.getStatus` has answered (R132, R134; in PGREAD its value is ignored, U4). -/
def State.statusAnswered (a : Answer) (s : State) : State :=
  match a with
  | .status c => if s.inPgread then { s with seq := .rdBulk } else s.ackClassified c
  | _ => if s.inPgread then s.finish .transportError else s.ackEnd .transportError

/-- The status read of the sequencer (R132). -/
def readStatus (s : State) : Out :=
  withPeer s <|
    .next (State.statusAnswered (s.answer (.getStatus s.latch.peer)) (s.afterCall (.getStatus s.latch.peer)))

end Sys2Proof.Machine
end

