-- ==== Sys2Proof/Machine/Page.lean ====
section
/-!
DEFINITION. The PagedWriter (spec/41_pagedwriter.md): PGWRITE, PGREAD, the page frame and the bulk read.
-/

namespace Sys2Proof.Machine

open Sys2Proof

/-- PGWRITE (R151, R152): the preconditions, then page 0; zero pages succeed at once and use neither PEER nor DBUF (R157
(a)). -/
def execPgwrite (s : State) : Out :=
  issue Instr.pgwrite.code
    (if s.regs.pgwriteLegal then s.launchFault (decide (0 < s.regs.len.toNat)) s.regs.len.toNat else none)
    (fun t => t.checked t.latch.pgwriteLegal fun t =>
      if t.latch.pageCount = 0 then t.finish .success else { t with seq := .pgSend }) s

/-- The page write has answered: its full count starts the completion wait, anything else aborts the command (R152, R153). -/
def State.pageSent (expected : Nat) (a : Answer) (s : State) : State :=
  if a = .count expected then s.ackBegin else s.pageAborted .transportError

/-- I2C_PAGE (R95, R152): `[start] ++ payload` to PEER as one transaction. -/
def execI2cPage (start : Byte) (payload : List Byte) (s : State) : Out :=
  handI2c (encode (.i2cPage start payload)) (decide (s.seq = .pgSend))
    (State.pageSent (encode (.i2cPage start payload)).length) s

/-- PGREAD (R158, R159). -/
def execPgread (s : State) : Out :=
  issue Instr.pgread.code (if s.regs.pgreadLegal then s.launchFault true 0 else none)
    (fun t => t.checked t.latch.pgreadLegal fun t => { t with seq := .rdProbe }) s

/-- The bulk read has answered: what came is stored and counted, and only the full length is a success (R159, R161). -/
def State.bulkAnswered (a : Answer) (s : State) : State :=
  match a with
  | .bytes b =>
    State.finish { s with dbuf := dbufWrite s.dbuf 0 b, res.xfer := BitVec.ofNat 16 b.length }
      (if b.length = s.latch.len.toNat then .success else .transportError)
  | _ => s.finish .transportError

/-- The bulk read of the sequencer (R97, R159). -/
def readBulk (s : State) : Out :=
  withPeer s <|
    .next (State.bulkAnswered (s.answer (.read s.latch.peer s.latch.len.toNat))
      (s.afterCall (.read s.latch.peer s.latch.len.toNat)))

end Sys2Proof.Machine
end

