-- ==== Sys2Proof/Machine/Serial.lean ====
section
/-!
DEFINITION. The SerialEepromDriver (spec/42_serial_eeprom.md): SEWEN, SWRITE, SREAD, the two sweeps, and their frames.
-/

namespace Sys2Proof.Machine

open Sys2Proof

/-- SEWEN (R171): no operand, no precondition. -/
def execSewen (s : State) : Out := issue Instr.sewen.code none (fun t => { t with seq := .enableWrites }) s

/-- SWRITE (R173, R174). -/
def execSwrite (s : State) : Out :=
  issue Instr.swrite.code none (fun t => t.checked t.latch.saddrLegal fun t => { t with seq := .wrCmd }) s

/-- SREAD (R173, R181). -/
def execSread (s : State) : Out :=
  issue Instr.sread.code none (fun t => t.checked t.latch.saddrLegal fun t => { t with seq := .rdCmd }) s

/-- A sweep begins: every UNITSTAT entry 0xFF, no failure counted, address 0 (R187, R188). -/
def State.sweepBegin (s : State) : State :=
  { s with unitstat := [], fails := 0, first := none, idx := 0, seq := .sweepNext }

/-- SSWEEPW (R186, R187). -/
def execSsweepw (s : State) : Out :=
  issue Instr.ssweepw.code (if s.regs.devSizeLegal then s.launchFault false s.regs.devSize.toNat else none)
    (fun t => t.checked t.latch.devSizeLegal State.sweepBegin) s

/-- SSWEEPR (R186, R188). -/
def execSsweepr (s : State) : Out :=
  issue Instr.ssweepr.code none (fun t => t.checked t.latch.devSizeLegal State.sweepBegin) s

/-- Between two addresses: on to the command frame of address `idx` (R187, R188, R313). -/
def State.nextUnit (s : State) : State :=
  { s with att := 0, outcome := .success, seq := if s.inSweepWrite then .wrCmd else .rdCmd }

/-- The log and the count of one unit of a sweep: UNITSTAT, XFER, and the first failure (R187, R188; log 27). -/
def State.unitLogged (s : State) (k : Kind) : State :=
  { s with
    unitstat := bufPut .unitstat s.unitstat s.idx k.code
    res.xfer := BitVec.ofNat 16 (s.idx + 1)
    fails := if k = .success then s.fails else s.fails + 1
    first := if k ≠ .success ∧ s.first = none then some (s.idx, k) else s.first }

/-- A sweep has attempted every address: FAILCNT, and PartialFailure naming the lowest failing address if any failed (R187,
R188, R234). -/
def State.sweepEnd (s : State) : State :=
  let t := { s with res.failcnt := BitVec.ofNat 16 s.fails }
  match s.first with
  | none => t.finish .success
  | some (a, k) => t.finishPartial k a

/-- The end of one unit of a sweep: a failure is logged and counted and does not abort the sweep (R185, R189). -/
def State.unitEnd (s : State) (k : Kind) : State :=
  let t := s.unitLogged k
  if s.idx + 1 < s.latch.devSize.toNat then { t with idx := s.idx + 1, seq := .sweepNext } else t.sweepEnd

/-- WriteByte returns with kind `k` to SWRITE or to the sweep: ATTEMPTS ← att (R174, R187). -/
def State.writeEnd (s : State) (k : Kind) : State :=
  let t := { s with res.attempts := BitVec.ofNat 32 s.att }
  if s.inSweepWrite then t.unitEnd k else t.finish k

/-- ReadByte returns a value: to SDATA (R181), or to DBUF[a] in a sweep (R188). -/
def State.readDone (s : State) (v : Byte) : State :=
  if s.inSweepRead then State.unitEnd { s with dbuf := bufPut .dbuf s.dbuf s.idx v } .success
  else State.finish { s with regs.sdata := v } .success

/-- ReadByte fails: SDATA and DBUF[a] keep their contents (R181, R188). -/
def State.readFailed (s : State) : State :=
  if s.inSweepRead then s.unitEnd .transportError else s.finish .transportError

/-- The count and reply of a transceive that transferred all `n` bytes; none is a transfer-count fault or `Err` (R73). -/
def fullReply (n : Nat) : Answer → Option (List Byte)
  | .reply r m => if m = n then some r else none
  | _ => none

/-- The write-enable frame has answered (R171). -/
def State.enableAnswered (a : Answer) (s : State) : State :=
  s.finish (if (fullReply 2 a).isSome then .success else .transportError)

/-- SER_EWEN (R100, R171). -/
def execSerEwen (s : State) : Out :=
  handFrame (.transceive (encode .serEwen) true) (decide (s.seq = .enableWrites)) State.enableAnswered s

/-- Step 1 of WriteByte has answered (R174, R175): the busy-poll, or the cleanup if no chunk is allowed (R180); a failure
ends the unit with no attempt made (with `cleanupAfterCmdFailure` the cleanup follows first, U5). -/
def State.writeCommandAnswered (a : Answer) (s : State) : State :=
  let t := { s with att := 0 }
  if (fullReply 3 a).isSome then
    { t with outcome := .busyTimeout, seq := if 0 < s.latch.pollLimit.toNat then .wrPoll else .wrCleanup }
  else if s.params.cleanupAfterCmdFailure then { t with outcome := .transportError, seq := .wrCleanup }
  else t.writeEnd .transportError

/-- SER_WRITE (R101, R174, R175). -/
def execSerWrite (a : SerAddr) (d : Byte) (s : State) : Out :=
  handFrame (.transceive (encode (.serWrite a d)) true) (decide (s.seq = .wrCmd)) State.writeCommandAnswered s

/-- A poll chunk has answered (R174, R176): a fault ends the poll with TransportError, a nonzero byte with Success, and an
all-zero reply means another chunk if the bound allows one, else BusyTimeout. -/
def State.pollAnswered (a : Answer) (s : State) : State :=
  let t := { s with att := s.att + 1 }
  match fullReply 10 a with
  | none => { t with outcome := .transportError, seq := .wrCleanup }
  | some r =>
    if anyNonzero r then { t with outcome := .success, seq := .wrCleanup }
    else if t.att < s.latch.pollLimit.toNat then { t with seq := .wrPoll }
    else { t with outcome := .busyTimeout, seq := .wrCleanup }

/-- SER_POLL (R104, R176): the select signal is held. -/
def execSerPoll (s : State) : Out :=
  handFrame (.transceive (encode .serPoll) false) (decide (s.seq = .wrPoll)) State.pollAnswered s

/-- The cleanup has answered (R177, R178): the first failure wins. -/
def State.cleanupAnswered (a : Answer) (s : State) : State :=
  s.writeEnd (if (fullReply 1 a).isNone ∧ s.outcome = .success then .transportError else s.outcome)

/-- SER_IDLE (R105, R177). -/
def execSerIdle (s : State) : Out :=
  handFrame (.transceive (encode .serIdle) true) (decide (s.seq = .wrCleanup)) State.cleanupAnswered s

/-- The read command has answered (R181): the value is decoded from the reply (R103), or the unit fails. -/
def State.readAnswered (a : Answer) (s : State) : State :=
  match fullReply 4 a with
  | some [_, _, r2, r3] => s.readDone (readReplyValue r2 r3)
  | _ => s.readFailed

/-- SER_READ (R102, R181). -/
def execSerRead (a : SerAddr) (s : State) : Out :=
  handFrame (.transceive (encode (.serRead a)) true) (decide (s.seq = .rdCmd)) State.readAnswered s

/-- SER_READ_REPLY (R103): the value carried by the reply of the read in progress; "no Transport answer arrives unasked:
the block never reacts to the peer except by the answer to a call it made" (R236), so with no read in progress there is no
effect (log 18). -/
def execSerReadReply (v : Byte) (s : State) : Out :=
  if s.seq = .rdCmd then .next (s.readDone v) else .next s

end Sys2Proof.Machine
end

