-- ==== Sys2Proof/Machine/Slave.lean ====
section
/-!
DEFINITION. The SlaveFrameReceiver (spec/43_slave_frame.md): RXFRAME, the polls and burst reads, the transform, the
delays and the reply frame.
-/

namespace Sys2Proof.Machine

open Sys2Proof

/-- The results of a reception: ATTEMPTS ← polls, XFER ← filled (R212). -/
def State.rxResults (s : State) : State :=
  { s with res.attempts := BitVec.ofNat 32 s.att, res.xfer := BitVec.ofNat 16 s.filled }

/-- The frame is not complete: the next poll if the bound allows one, else BusyTimeout (R212, R213, R217; log 24). -/
def State.rxPollAgain (s : State) : State :=
  if s.att < s.latch.rxPollLimit.toNat then { s with want := 0, seq := .receiving }
  else s.rxResults.finish .busyTimeout

/-- RXFRAME (R211, R212). -/
def execRxframe (s : State) : Out :=
  issue Instr.rxframe.code none (fun t => t.checked t.latch.rxTargetLegal State.rxPollAgain) s

/-- `want <- min(k, target - filled)` (R214). -/
def State.rxWant (s : State) (k : Nat) : Nat := min k (s.latch.rxTarget.toNat - s.filled)

/-- `T.bytesAvailable` has answered (R212, R213, R219). -/
def State.rxPolled (a : Answer) (s : State) : State :=
  let t := { s with att := s.att + 1 }
  match a with
  | .count k => if k = 0 then t.rxPollAgain else { t with want := t.rxWant k }
  | _ => t.rxResults.finish .transportError

/-- A poll (R213). -/
def pollBacklog (s : State) : Out := .next (State.rxPolled (s.answer .bytesAvailable) (s.afterCall .bytesAvailable))

/-- `T.slaveRead` has answered (R214, R215, R219): the bytes go into the tail of the frame and count as what came. -/
def State.rxRead (a : Answer) (s : State) : State :=
  match a with
  | .bytes b =>
    let t := { s with dbuf := dbufWrite s.dbuf s.filled b, filled := s.filled + b.length, want := 0 }
    if t.filled < s.latch.rxTarget.toNat then t.rxPollAgain else { t.rxResults with seq := .complete }
  | _ => s.rxResults.finish .transportError

/-- The read of a burst (R214). -/
def readBurst (s : State) : Out :=
  .next (State.rxRead (s.answer (.slaveRead s.want)) (s.afterCall (.slaveRead s.want)))

/-- The transform, once, over the complete frame (R218). -/
def State.transformed (s : State) : State :=
  { s with
    dbuf := transformFrame s.xlut s.dbuf s.latch.rxTarget.toNat
    seq := .responding
    phase := .preDelay }

/-- `Delay(x[SETTLE_PRE])` (R221). -/
def State.preDelayed (s : State) : State := { s.afterDelay s.latch.settlePre with phase := .reply }

/-- `Delay(x[SETTLE_POST])` and the end (R212, R221). -/
def State.postDelayed (s : State) : State := (s.afterDelay s.latch.settlePost).finish .success

/-- The reply has answered (R220). -/
def State.replied (expected : Nat) (a : Answer) (s : State) : State :=
  if a = .count expected then { s with phase := .postDelay } else s.finish .transportError

/-- SLAVE_FRAME (R106, R212): the bytes as one reply frame. -/
def execSlaveFrame (bytes : List Byte) (s : State) : Out :=
  handFrame (.slaveWrite (encode (.slaveFrame bytes))) (decide (s.seq = .responding ∧ s.phase = .reply))
    (State.replied (encode (.slaveFrame bytes)).length) s

end Sys2Proof.Machine
end

