-- ==== Sys2Proof/Machine/Dispatch.lean ====
section
/-!
DEFINITION. The meaning of every instruction, one arm per constructor of `Instr`.
-/

namespace Sys2Proof.Machine

open Sys2Proof

def exec (i : Instr) (s : State) : Host.Outcome State Fault Refusal :=
  match i with
  | .nop => Sys2Proof.Machine.execNop s
  | .waitrdy => Sys2Proof.Machine.execWaitrdy s
  | .pgwrite => Sys2Proof.Machine.execPgwrite s
  | .pgread => Sys2Proof.Machine.execPgread s
  | .sewen => Sys2Proof.Machine.execSewen s
  | .swrite => Sys2Proof.Machine.execSwrite s
  | .sread => Sys2Proof.Machine.execSread s
  | .ssweepw => Sys2Proof.Machine.execSsweepw s
  | .ssweepr => Sys2Proof.Machine.execSsweepr s
  | .rxframe => Sys2Proof.Machine.execRxframe s
  | .i2cProbe => Sys2Proof.Machine.execI2cProbe s
  | .i2cPage start payload => Sys2Proof.Machine.execI2cPage start payload s
  | .serEwen => Sys2Proof.Machine.execSerEwen s
  | .serWrite a d => Sys2Proof.Machine.execSerWrite a d s
  | .serRead a => Sys2Proof.Machine.execSerRead a s
  | .serPoll => Sys2Proof.Machine.execSerPoll s
  | .serIdle => Sys2Proof.Machine.execSerIdle s
  | .serReadReply v => Sys2Proof.Machine.execSerReadReply v s
  | .slaveFrame bytes => Sys2Proof.Machine.execSlaveFrame bytes s

end Sys2Proof.Machine
end

