-- ==== Sys2Proof/Machine/HostAccess.lean ====
section
/-!
DEFINITION. The host's accesses: HostRead, HostWrite, HostBufRead, HostBufWrite (spec/10_state.md R21, R22, R25), legal
only while BUSY = 0 but for HostRead(STATUS) (spec/70_reset_and_hazards.md R281).
-/

namespace Sys2Proof.Machine

open Sys2Proof

/-- Does a read of register `n` give a free value: PEER or LAST_STATUS that nothing has written (R39, U11). -/
def State.regReadIsFree (s : State) (n : Nat) : Bool :=
  (decide (n = 2) && !s.peerWritten) || (decide (n = 20) && !s.lastStatusWritten)

/-- The contents of register `n` (R22); a number without a register reads 0. -/
def State.regValue (s : State) : Nat → Word
  | 0 => s.cmd.setWidth 32
  | 1 => (lowTwoBits s.status).setWidth 32
  | 2 => s.regs.peer.setWidth 32
  | 3 => s.regs.retryLimit
  | 4 => s.regs.pageSize.setWidth 32
  | 5 => s.regs.len.setWidth 32
  | 6 => s.regs.saddr.setWidth 32
  | 7 => s.regs.sdata.setWidth 32
  | 8 => s.regs.pollLimit
  | 9 => s.regs.devSize.setWidth 32
  | 10 => s.regs.rxTarget.setWidth 32
  | 11 => s.regs.rxPollLimit
  | 12 => s.regs.settlePre
  | 13 => s.regs.settlePost
  | 16 => s.res.result.setWidth 32
  | 17 => s.res.cause.setWidth 32
  | 18 => s.res.unit.setWidth 32
  | 19 => s.res.attempts
  | 20 => s.res.lastStatus.setWidth 32
  | 21 => (lowTwoBits s.res.flags).setWidth 32
  | 22 => s.res.failcnt.setWidth 32
  | 23 => s.res.xfer.setWidth 32
  | _ => 0

/-- A value returned to the host. -/
def State.returning (s : State) (v : Word) : State := { s with reads := s.reads ++ [v] }

/-- A free byte returned to the host, a fresh one each time (R39, U11; log 9). -/
def State.returningFree (s : State) : State :=
  { s with reads := s.reads ++ [(Config.freeByte s.draws).setWidth 32], draws := s.draws + 1 }

/-- `HostRead(n)`. -/
def hostRead (n : Nat) (s : State) : Out :=
  if s.busy ∧ n ≠ 1 then .fault .hostWhileBusy
  else .next (if s.regReadIsFree n then s.returningFree else s.returning (s.regValue n))

/-- Register `n` after a host write of `v`, register 0 apart: a parameter register takes the value at its own width (log
15); a read-only register and a number without a register keep everything as it is (R22; log 14). -/
def State.regWritten (s : State) (n : Nat) (v : Word) : State :=
  match n with
  | 2 => { s with regs.peer := v.setWidth 8, peerWritten := true }
  | 3 => { s with regs.retryLimit := v }
  | 4 => { s with regs.pageSize := v.setWidth 16 }
  | 5 => { s with regs.len := v.setWidth 16 }
  | 6 => { s with regs.saddr := v.setWidth 8 }
  | 7 => { s with regs.sdata := v.setWidth 8 }
  | 8 => { s with regs.pollLimit := v }
  | 9 => { s with regs.devSize := v.setWidth 8 }
  | 10 => { s with regs.rxTarget := v.setWidth 16 }
  | 11 => { s with regs.rxPollLimit := v }
  | 12 => { s with regs.settlePre := v }
  | 13 => { s with regs.settlePost := v }
  | _ => s

/-- `HostWrite(n, v)` of a register other than CMD. -/
def hostWrite (n : Nat) (v : Word) (s : State) : Out :=
  if s.busy then .fault .hostWhileBusy else .next (s.regWritten n v)

/-- The contents of a buffer. -/
def State.buffer (s : State) : BufSpace → Memory
  | .dbuf => s.dbuf
  | .unitstat => s.unitstat
  | .xlut => s.xlut

/-- `HostBufRead(space, i)`. -/
def hostBufRead (sp : BufSpace) (i : Nat) (s : State) : Out :=
  if s.busy then .fault .hostWhileBusy
  else if sp.size ≤ i then .fault .noSuchElement
  else
    match bufGet sp (s.buffer sp) i with
    | some v => .next (s.returning (v.setWidth 32))
    | none => .next s.returningFree

/-- One element of a buffer after a host write; UNITSTAT is read only for the host (R32; log 14). -/
def State.bufWritten (s : State) (sp : BufSpace) (i : Nat) (v : Byte) : State :=
  match sp with
  | .dbuf => { s with dbuf := bufPut .dbuf s.dbuf i v }
  | .unitstat => s
  | .xlut => { s with xlut := bufPut .xlut s.xlut i v }

/-- `HostBufWrite(space, i, v)`. -/
def hostBufWrite (sp : BufSpace) (i : Nat) (v : Byte) (s : State) : Out :=
  if s.busy then .fault .hostWhileBusy
  else if sp.size ≤ i then .fault .noSuchElement
  else .next (s.bufWritten sp i v)

end Sys2Proof.Machine
end

