-- ==== Sys2Proof/Machine/Sequencer.lean ====
section
/-!
DEFINITION. One step of the sequencer, "one Transport call with its answer" or "one internal move", and one act of the
host (spec/00_scope.md R3, R17; spec/44_common_semantics.md R313, R317); and where the machine finds its next instruction.
-/

namespace Sys2Proof.Machine

open Sys2Proof

/-- One step of the sequencer (R313): the frame that SEQ stands at, run as the instruction it is, or a move that sends
none. -/
def seqStep (s : State) : Out :=
  match s.nextMove with
  | .rest => .next s
  | .frame i => exec i s
  | .stop f => .fault f
  | .readStatus => readStatus s
  | .readBulk => readBulk s
  | .nextUnit => .next s.nextUnit
  | .pollBacklog => pollBacklog s
  | .readBurst => readBurst s
  | .transform => .next s.transformed
  | .delayPre => .next s.preDelayed
  | .delayPost => .next s.postDelayed

/-- The host's write of CMD: the code's instruction, or a reserved code (R23, R93). -/
def commandWrite (code : Byte) (s : State) : Out :=
  match decode .command [code] with
  | .ok i => exec i s
  | .error _ => issueReserved code s

/-- A Transport call of the host's own, between commands: the block sees the call and SEL (R282, R288); while a command
runs it is a fault (log 17). -/
def hostTransport (c : Call) (s : State) : Out :=
  if s.busy then .fault .foreignTransaction else .next (s.afterCall c)

/-- Bytes that are no frame of the block, handed to a connection by the host itself: the connection's own call carries them
(R282; log 17). Nothing but the answer of a call brings reply bytes to the block (R236). -/
def handRaw (c : Connection) (bytes : List Byte) (s : State) : Out :=
  match c with
  | .i2c => .next (s.ownPeerRead.afterCall (.write s.ownPeer bytes))
  | .serial => .next (s.afterCall (.transceive bytes true))
  | .serialReply => .next s
  | .slave => .next (s.afterCall (.slaveWrite bytes))

/-- The host itself hands bytes to a connection while no command runs (R282, R288; log 17): a frame is run as the instruction
it is. -/
def directFrame (c : Connection) (bytes : List Byte) (s : State) : Out :=
  if s.busy then .fault .foreignTransaction
  else
    match decode c.format bytes with
    | .ok i => exec i s
    | .error _ => handRaw c bytes s

/-- With no act of the host pending a running command goes on by itself, and an idle block does nothing (R271; log 13). -/
def freeRun (s : State) : Out := if s.busy then seqStep s else .next s

/-- One act of the host, at the state that no longer lists it. -/
def hostAct (inp : Input) (s : State) : Out :=
  match inp with
  | .hostRead n => hostRead n s
  | .hostWrite n v => if n = 0 then commandWrite (v.setWidth 8) s else hostWrite n v s
  | .bufRead sp i => hostBufRead sp i s
  | .bufWrite sp i v => hostBufWrite sp i v s
  | .wire c bytes => directFrame c bytes s
  | .transport c => hostTransport c s
  | .seqTurn => freeRun s
  | .waitDone => .next s
  | .rst => resetInput s

/-- One step of the machine (R3, R17): the host's next act; while the host waits for DONE, or has nothing to do, the
sequencer moves (R316). -/
def turn (s : State) : Out :=
  match s.inputs with
  | [] => freeRun s
  | .waitDone :: rest => if s.done then hostAct .waitDone { s with inputs := rest } else freeRun s
  | inp :: rest => hostAct inp { s with inputs := rest }

/-- The host's act that hands a table word to the block: one byte is a write of CMD, a longer word is handed to the
connection that reads it (log 19, log 20). -/
def wordInput (nbits w : Nat) : Input :=
  if nbits = 8 then .hostWrite 0 (BitVec.ofNat 32 (w % 256))
  else
    match firstDecoding (bytesOfWord (nbits / 8) w) tableConnections with
    | some (c, _) => .wire c (bytesOfWord (nbits / 8) w)
    | none => .wire .serial (bytesOfWord (nbits / 8) w)

end Sys2Proof.Machine
end

