-- ==== Sys2Proof/Machine/Step.lean ====
section
/-!
DEFINITION. The step of the machine (spec/00_scope.md R3), and where it fetches its next instruction.
-/

namespace Sys2Proof.Machine

open Sys2Proof

/-- One step: one act of the host, one Transport call, one Delay or one internal move (R3, R17). -/
def step (s : State) : Host.Outcome State Fault Refusal := turn s

/-- The state in which the very next act of the host is to hand over the word (log 19, log 20): the block fetches no
instruction from memory (R82), its instruction is what the host gives it. -/
def State.withFetchWord (s : State) (nbits w : Nat) : State := { s with inputs := wordInput nbits w :: s.inputs }

end Sys2Proof.Machine
end

