-- ==== Sys2Proof/Safety.lean ====
section
/-!
DEFINITION. What a sound state is, in the terms the statements use: the invariant of the sequencer (spec/10_state.md R24,
R27, R28; spec/44_common_semantics.md R313), the invariant of the select signal (spec/42_serial_eeprom.md R184), and a run.
-/

namespace Sys2Proof.Machine

open Sys2Proof

/-- STATUS and SEQ agree: BUSY alone while a command runs, else nothing or DONE alone and SEQ Idle (R24, R27). -/
def State.statusOk (s : State) : Bool :=
  (decide (s.status = statusBusy) && decide (s.seq ≠ .idle))
    || ((decide (s.status = 0x00) || decide (s.status = statusDone)) && decide (s.seq = .idle))

/-- The three buffers are canonical and inside their sizes (R84). -/
def State.buffersOk (s : State) : Bool :=
  Memory.wf .dbuf s.dbuf && Memory.wf .unitstat s.unitstat && Memory.wf .xlut s.xlut

/-- The kinds a unit of work can end with (R32, R234). -/
def Kind.ofUnit (k : Kind) : Bool :=
  decide (k = .success) || decide (k = .transportError) || decide (k = .busyTimeout)

/-- RESULT holds a kind, CAUSE holds one exactly when RESULT is PartialFailure, FLAGS has no bit above 1, and RESULT is 0
while a command runs (R26, R29, R230, R234). -/
def State.resultsOk (s : State) : Bool :=
  decide (s.res.result.toNat ≤ 4) && decide (s.res.cause.toNat ≤ 2)
    && decide (s.res.cause ≠ 0 ↔ s.res.result = Kind.partialFailure.code)
    && decide (lowTwoBits s.res.flags = s.res.flags)
    && decide (s.seq ≠ .idle → s.res.result = 0)

/-- The failures of a running sweep are among the addresses before `idx`, and `first` names one iff there is one (R187). -/
def State.sweepLogOk (s : State) : Bool :=
  decide (s.fails ≤ s.idx) && decide (s.fails = 0 ↔ s.first = none)
    && (match s.first with
        | none => true
        | some (a, k) => decide (a < s.idx) && k.ofUnit && decide (k ≠ .success))

/-- A page of PGWRITE is in hand, and what the command hands over is written (R151, R152, R275). -/
def State.onPage (s : State) : Bool :=
  s.inPgwrite && s.latch.pgwriteLegal && decide (s.idx < s.latch.pageCount) && s.peerWritten
    && (dbufRead s.dbuf 0 s.latch.len.toNat).isSome

/-- A wait is in hand: WAITRDY's or a page's (R131, R152, R275). -/
def State.onWait (s : State) : Bool := (decide (s.cmd = Instr.waitrdy.code) && s.peerWritten) || s.onPage

/-- PGREAD is running (R158, R275). -/
def State.onPgread (s : State) : Bool := s.inPgread && s.latch.pgreadLegal && s.peerWritten

/-- An address of a sweep is in hand; the data of SSWEEPW is written (R186, R275). -/
def State.onSweep (s : State) : Bool :=
  ((s.inSweepWrite && (dbufRead s.dbuf 0 s.latch.devSize.toNat).isSome) || s.inSweepRead) && s.latch.devSizeLegal && decide (s.idx < s.latch.devSize.toNat) && s.sweepLogOk

/-- A WriteByte is in hand (R174, R187). -/
def State.onWrite (s : State) : Bool :=
  (decide (s.cmd = Instr.swrite.code) && s.latch.saddrLegal) || (s.inSweepWrite && s.onSweep)

/-- A ReadByte is in hand (R181, R188). -/
def State.onRead (s : State) : Bool :=
  (decide (s.cmd = Instr.sread.code) && s.latch.saddrLegal) || (s.inSweepRead && s.onSweep)

/-- A reception is in hand: no more bytes than the target, all of them stored (R84, R211, R215). -/
def State.onFrame (s : State) : Bool :=
  decide (s.cmd = Instr.rxframe.code) && s.latch.rxTargetLegal && decide (s.filled ≤ s.latch.rxTarget.toNat)
    && decide (s.att ≤ s.latch.rxPollLimit.toNat) && (dbufRead s.dbuf 0 s.filled).isSome

/-- Every sequencer state belongs to its command (R27), and its counters are below their bounds (R28, R313). -/
def State.seqOk (s : State) : Bool :=
  match s.seq with
  | .idle => true
  | .ackProbe => s.onWait && decide (s.att < s.latch.retryLimit.toNat)
  | .ackStatus =>
    (s.onWait && decide (s.att ≤ s.latch.retryLimit.toNat))
      || (s.onPgread && s.params.pgreadProbeReadsStatus)
  | .pgSend => s.onPage
  | .rdProbe => s.onPgread
  | .rdBulk => s.onPgread
  | .enableWrites => decide (s.cmd = Instr.sewen.code)
  | .wrCmd => s.onWrite
  | .wrPoll => s.onWrite && decide (s.att < s.latch.pollLimit.toNat)
  | .wrCleanup => s.onWrite && decide (s.att ≤ s.latch.pollLimit.toNat) && s.outcome.ofUnit
  | .rdCmd => s.onRead
  | .sweepNext => s.onSweep
  | .receiving =>
    s.onFrame && decide (s.filled < s.latch.rxTarget.toNat)
      && decide (s.want ≤ s.latch.rxTarget.toNat - s.filled)
      && decide (s.want = 0 → s.att < s.latch.rxPollLimit.toNat)
  | .complete => s.onFrame && decide (s.filled = s.latch.rxTarget.toNat)
  | .responding => s.onFrame && decide (s.filled = s.latch.rxTarget.toNat)

/-- The invariant of the machine. -/
def State.inv (s : State) : Bool := s.statusOk && s.buffersOk && s.resultsOk && s.seqOk

/-- The select signal as R176 and R184 have it: from the first poll chunk to the cleanup it is asserted (or unknown, if the
last chunk answered `Err` and ended the poll with TransportError, R34), and at every other moment it is not asserted. -/
def State.selOk (s : State) : Bool :=
  match s.seq with
  | .wrPoll => if s.att = 0 then decide (s.sel ≠ .asserted) else decide (s.sel = .asserted)
  | .wrCleanup =>
    if s.att = 0 then decide (s.sel ≠ .asserted)
    else decide (s.sel = .asserted) || (decide (s.sel = .unknown) && decide (s.outcome = .transportError))
  | _ => decide (s.sel ≠ .asserted)

/-- `n` steps of the machine. -/
def runFor (n : Nat) (s : State) : Out := Host.Core.run Sys2Proof.core n s

/-- Did a run arrive at a state with this property. -/
def nextAnd (o : Out) (p : State → Bool) : Bool :=
  match o with
  | .next s => p s
  | .fault _ => false
  | .refused _ => false

end Sys2Proof.Machine
end

