-- ==== Sys2Proof/Certificates/Slice0/Obligations.lean ====
section
/-!
DEFINITION. The statements about the machine, from the numbered rules of spec/. The definitions before the first statement
are the vocabulary of the statements: scripts of Transport answers, the events they leave in the bus history, and the
conditions that the rules name. Registers are named by their fields of the state; `runFor n` is n steps of the machine.
-/

open Sys2Proof Sys2Proof.Machine

namespace Sys2Proof.Machine

/-! Vocabulary. -/

/-- The ten commands (R91). -/
def commandList : List Instr :=
  [.nop, .waitrdy, .pgwrite, .pgread, .sewen, .swrite, .sread, .ssweepw, .ssweepr, .rxframe]

/-- The ten command codes (R91). -/
def commandCodes : List Byte := [0x00, 0x01, 0x02, 0x03, 0x10, 0x11, 0x12, 0x13, 0x14, 0x20]

/-- The causes of ProtocolViolation that a command's own registers can show (R233 (1) to (5)). -/
def violates (r : ParamRegs) : Instr → Prop
  | .pgwrite => r.pageSize = 0 ∨ r.len.toNat % r.pageSize.toNat ≠ 0 ∨ 256 < r.len.toNat
  | .pgread => r.len = 0 ∨ 256 < r.len.toNat
  | .swrite => 127 < r.saddr.toNat
  | .sread => 127 < r.saddr.toNat
  | .ssweepw => r.devSize = 0 ∨ 128 < r.devSize.toNat
  | .ssweepr => r.devSize = 0 ∨ 128 < r.devSize.toNat
  | .rxframe => r.rxTarget = 0 ∨ 256 < r.rxTarget.toNat
  | _ => False

/-- The result registers of a command that ended, LAST_STATUS apart as given. -/
def resultsOf (k : Kind) (cause : Byte) (unit : Half) (attempts : Word) (lastStatus flags : Byte) (failcnt xfer : Half) :
    ResultRegs where
  result     := k.code
  cause      := cause
  unit       := unit
  attempts   := attempts
  lastStatus := lastStatus
  flags      := flags
  failcnt    := failcnt
  xfer       := xfer

/-- The event of a probe (R94, R131). -/
def probeEvent (peer : Byte) (a : Answer) : Event := .call (.write peer [0x00]) a

/-- The answers of AckWait attempts whose probes count 1 and whose statuses are `cs` (R132). -/
def attemptScript : List Byte → List Answer
  | [] => []
  | c :: cs => .count 1 :: .status c :: attemptScript cs

/-- The events of the same attempts. -/
def attemptEvents (peer : Byte) : List Byte → List Event
  | [] => []
  | c :: cs => probeEvent peer (.count 1) :: .call (.getStatus peer) (.status c) :: attemptEvents peer cs

/-- A status that confirms readiness: not busy, not idle, not address-nacked (R133). -/
def confirms (p : Params) (c : Byte) : Bool := !p.isBusy c && !p.isIdle c && !p.isAddrNacked c

/-- The answers of `n` pages, each sent in full and acknowledged at once with status `c` (R155). -/
def pageScript (pageSize : Nat) (c : Byte) : Nat → List Answer
  | 0 => []
  | n + 1 => .count (pageSize + 1) :: .count 1 :: .status c :: pageScript pageSize c n

/-- The frame of page `k` of the data: start address, then payload (R95, R152). -/
def pageBytes (pageSize : Nat) (data : List Byte) (k : Nat) : List Byte :=
  BitVec.ofNat 8 (k * pageSize) :: (data.drop (k * pageSize)).take pageSize

/-- The events of the pages 0 .. n-1, each sent in full and acknowledged at once (R155). -/
def pageEvents (peer : Byte) (pageSize : Nat) (c : Byte) (data : List Byte) : Nat → List Event
  | 0 => []
  | n + 1 =>
    pageEvents peer pageSize c data n ++
      [.call (.write peer (pageBytes pageSize data n)) (.count (pageSize + 1)), probeEvent peer (.count 1),
        .call (.getStatus peer) (.status c)]

/-- The event of the write command of a serial address (R101, R174). -/
def writeCommandEvent (a d : Byte) (ans : Answer) : Event := .call (.transceive [0x02, 0x80 ||| a, d] true) ans

/-- The event of a poll chunk (R104, R176). -/
def chunkEvent (ans : Answer) : Event := .call (.transceive (List.replicate 10 0x00) false) ans

/-- The event of the cleanup (R105, R177). -/
def cleanupEvent (ans : Answer) : Event := .call (.transceive [0x00] true) ans

/-- A chunk whose ten received bytes are all zero: still busy (R176). -/
def stillBusy : Answer := .reply (List.replicate 10 0x00) 10

/-- The event of the read command of a serial address (R102, R181). -/
def readCommandEvent (a : Byte) (ans : Answer) : Event := .call (.transceive [0x03, a, 0x00, 0x00] true) ans

/-- The answers of polls that each report a burst and reads that each return it (R213, R214). -/
def burstScript : List (List Byte) → List Answer
  | [] => []
  | b :: bs => .count b.length :: .bytes b :: burstScript bs

/-- The events of the same polls and reads. -/
def burstEvents : List (List Byte) → List Event
  | [] => []
  | b :: bs => .call .bytesAvailable (.count b.length) :: .call (.slaveRead b.length) (.bytes b) :: burstEvents bs

/-- The bounds on the number of Transport calls of a command (R290), settle delays apart. -/
def callBound (r : ParamRegs) : Instr → Nat
  | .waitrdy => 2 * r.retryLimit.toNat
  | .pgwrite => r.len.toNat / r.pageSize.toNat * (1 + 2 * r.retryLimit.toNat)
  | .pgread => 2
  | .sewen => 1
  | .swrite => 2 + r.pollLimit.toNat
  | .sread => 1
  | .ssweepw => r.devSize.toNat * (2 + r.pollLimit.toNat)
  | .ssweepr => r.devSize.toNat
  | .rxframe => 2 * r.rxPollLimit.toNat + 1
  | _ => 0

/-- How many Transport calls a history holds. -/
def callCount : List Event → Nat
  | [] => 0
  | .call _ _ :: es => callCount es + 1
  | .delay _ :: es => callCount es

/-- The launch premises of a command (R151, R186, R275): PEER is written if the command uses it, and so is every DBUF byte
that it transmits. A command that its own preconditions or a limit of 0 end at once uses neither (log 10). -/
def launchable (s : State) : Instr → Prop
  | .waitrdy => s.regs.retryLimit ≠ 0 → s.peerWritten = true
  | .pgwrite =>
    ¬ violates s.regs .pgwrite → s.regs.len ≠ 0 →
      s.peerWritten = true ∧ (dbufRead s.dbuf 0 s.regs.len.toNat).isSome = true
  | .pgread => ¬ violates s.regs .pgread → s.peerWritten = true
  | .ssweepw => ¬ violates s.regs .ssweepw → (dbufRead s.dbuf 0 s.regs.devSize.toNat).isSome = true
  | _ => True

/-- The answers that a transceive of `k` bytes may give (R73); every other answer counts as `Err` (R76). -/
def isReplyOf (k : Nat) (a : Answer) : Prop := ∃ (r : List Byte) (n : Nat), r.length = k ∧ n ≤ k ∧ a = .reply r n

/-- Does SEQ stand at the wire frame (R27, R313). -/
def atTurn (s : State) : Instr → Prop
  | .i2cProbe => s.seq = .ackProbe ∨ s.seq = .rdProbe
  | .i2cPage _ _ => s.seq = .pgSend
  | .serEwen => s.seq = .enableWrites
  | .serWrite _ _ => s.seq = .wrCmd
  | .serRead _ => s.seq = .rdCmd
  | .serPoll => s.seq = .wrPoll
  | .serIdle => s.seq = .wrCleanup
  | .slaveFrame _ => s.seq = .responding ∧ s.phase = .reply
  | .serReadReply _ | .nop | .waitrdy | .pgwrite | .pgread | .sewen | .swrite | .sread | .ssweepw | .ssweepr
  | .rxframe => False

/-- The contents of the registers, by number, STATUS apart; PEER and LAST_STATUS when something has written them (R22, R39).
FLAGS shows SUCCEEDED in bit 0 and LAST_STATUS_VALID in bit 1 (R29). -/
def registerContents (s : State) : List (Nat × Word) :=
  [(0, s.cmd.setWidth 32), (3, s.regs.retryLimit), (4, s.regs.pageSize.setWidth 32), (5, s.regs.len.setWidth 32),
    (6, s.regs.saddr.setWidth 32), (7, s.regs.sdata.setWidth 32), (8, s.regs.pollLimit),
    (9, s.regs.devSize.setWidth 32), (10, s.regs.rxTarget.setWidth 32), (11, s.regs.rxPollLimit),
    (12, s.regs.settlePre), (13, s.regs.settlePost), (16, s.res.result.setWidth 32), (17, s.res.cause.setWidth 32),
    (18, s.res.unit.setWidth 32), (19, s.res.attempts),
    (21, (if s.succeeded then 1 else 0) + (if s.lastStatusValid then 2 else 0)),
    (22, s.res.failcnt.setWidth 32), (23, s.res.xfer.setWidth 32)] ++
    (if s.peerWritten then [(2, s.regs.peer.setWidth 32)] else []) ++
    (if s.lastStatusWritten then [(20, s.res.lastStatus.setWidth 32)] else [])

/-- What R38 states of the state after reset. That XLUT's table is ASCII uppercase is log 26. -/
def atReset (u : State) : Prop :=
  u.cmd = 0x00 ∧ u.status = 0x00 ∧ u.regs.retryLimit = 25 ∧ u.regs.pageSize = 8 ∧ u.regs.len = 128 ∧
  u.regs.saddr = 0 ∧ u.regs.sdata = 0 ∧ u.regs.pollLimit = 1000 ∧ u.regs.devSize = 128 ∧
  u.regs.rxTarget = 128 ∧ u.regs.rxPollLimit = 300000000 ∧
  u.regs.settlePre = Config.settlePreDefault ∧ u.regs.settlePost = Config.settlePostDefault ∧
  u.res.result = 0 ∧ u.res.cause = 0 ∧ u.res.unit = 0 ∧ u.res.attempts = 0 ∧ u.res.flags = 0x00 ∧
  u.res.failcnt = 0 ∧ u.res.xfer = 0 ∧
  u.seq = .idle ∧ u.att = 0 ∧ u.idx = 0 ∧ u.filled = 0 ∧ u.sel = .deasserted ∧
  (∀ a, a < 128 → bufGet .unitstat u.unitstat a = some 0xFF) ∧
  (∀ b : Byte, bufGet .xlut u.xlut b.toNat =
    some (if 0x61 ≤ b.toNat ∧ b.toNat ≤ 0x7A then b - 0x20 else b)) ∧
  (∀ i, bufGet .dbuf u.dbuf i = none) ∧ u.peerWritten = false ∧ u.lastStatusWritten = false

/-- The addresses below `n` that the log of a sweep shows as failed, ascending (R32). -/
def failedUnits (unitstat : Memory) (n : Nat) : List Nat :=
  (List.range n).filter fun a => bufGet .unitstat unitstat a != some 0

/-- The results of a sweep over `n` addresses, from its log (R187, R188, R234): FAILCNT is the number of failed addresses,
UNIT the lowest of them and CAUSE its entry, XFER the number of addresses. -/
def sweepResults (unitstat : Memory) (n : Nat) (attempts : Word) (lastStatus : Byte) : ResultRegs :=
  match failedUnits unitstat n with
  | [] => resultsOf .success 0 0 attempts lastStatus 0x01 0 (BitVec.ofNat 16 n)
  | a :: others =>
    resultsOf .partialFailure ((bufGet .unitstat unitstat a).getD 0) (BitVec.ofNat 16 a) attempts lastStatus 0x00
      (BitVec.ofNat 16 (others.length + 1)) (BitVec.ofNat 16 n)

/-- The value that the answer to a read command carries; none is a failed read (R103, R181). -/
def readValueOf : Answer → Option Byte
  | .reply [_, _, r2, r3] 4 => some (((r2 <<< 1) &&& 0xFE#8) ||| ((r3 >>> 7) &&& 0x01#8))
  | _ => none

/-- The address byte and the datum of a write command in the history (R101). -/
def writeCommandOf : Event → Option (Byte × Byte)
  | .call (.transceive [b0, a, d] _) _ => if b0 = 0x02 then some (a, d) else none
  | _ => none

/-- The transition table of the sequencer (R313), by command and state; `idle` is "end". The edges between RdProbe, AckStatus
and RdBulk under `pgreadProbeReadsStatus` are the model's form of U4 (log 6). -/
def seqEdge (p : Params) (cmd : Byte) : Seq → Seq → Bool
  | .ackProbe, .ackStatus => true
  | .ackProbe, .idle => true
  | .ackStatus, .ackProbe => cmd = 0x01 || cmd = 0x02
  | .ackStatus, .pgSend => cmd = 0x02
  | .ackStatus, .rdBulk => cmd = 0x03 && p.pgreadProbeReadsStatus
  | .ackStatus, .idle => true
  | .pgSend, .ackProbe => true
  | .pgSend, .idle => true
  | .rdProbe, .rdBulk => !p.pgreadProbeReadsStatus
  | .rdProbe, .ackStatus => p.pgreadProbeReadsStatus
  | .rdProbe, .idle => true
  | .rdBulk, .idle => true
  | .enableWrites, .idle => true
  | .wrCmd, .wrPoll => true
  | .wrCmd, .wrCleanup => true
  | .wrCmd, .idle => true
  | .wrCmd, .sweepNext => cmd = 0x13
  | .wrPoll, .wrPoll => true
  | .wrPoll, .wrCleanup => true
  | .wrCleanup, .idle => true
  | .wrCleanup, .sweepNext => cmd = 0x13
  | .rdCmd, .idle => true
  | .rdCmd, .sweepNext => cmd = 0x14
  | .sweepNext, .wrCmd => cmd = 0x13
  | .sweepNext, .rdCmd => cmd = 0x14
  | .receiving, .receiving => true
  | .receiving, .complete => true
  | .receiving, .idle => true
  | .complete, .responding => true
  | .responding, .responding => true
  | .responding, .idle => true
  | _, _ => false

/-- The width of a parameter register (R22). -/
def paramWidth (n : Nat) : Nat :=
  if n = 2 ∨ n = 6 ∨ n = 7 ∨ n = 9 then 8 else if n = 4 ∨ n = 5 ∨ n = 10 then 16 else 32

end Sys2Proof.Machine

/-! Encodings. -/

/-- Every instruction's bytes are read back as the instruction, operands at every value the encoding admits (R91, R94, R95,
R99 to R107). -/
def Obligations.DecodeReadsBackEveryEncoding : Prop :=
  ∀ i : Instr, i.wellFormed = true → decode i.format (encode i) = .ok i

/-- Bytes that decode are the encoding of what they decode to, and that is a well-formed instruction of the channel; the
read reply, whose ignored bits may be anything (R103), apart. -/
def Obligations.DecodedBytesAreTheEncoding : Prop :=
  ∀ (f : Format) (bs : List Byte) (i : Instr), f ≠ .serialReply → decode f bs = .ok i →
    encode i = bs ∧ i.wellFormed = true ∧ i.format = f

/-- R93: the ten codes of R91 are the ten commands in the table's order, every other code is reserved. -/
def Obligations.DecoderIsTotalOnAllCodes : Prop :=
  commandCodes.map (fun c => decode .command [c]) = commandList.map .ok ∧
    ∀ c : Byte, c ∉ commandCodes → decode .command [c] = .error (.reservedCommand c)

/-- Words written out from the spec's encodings (R91, R94 to R105; 95_test_vectors.md 2.1, 2.2) decode to the instructions
they stand for. -/
def Obligations.SampleFramesDecode : Prop :=
  decode .command [0x13] = .ok .ssweepw ∧
  decode .i2c [0x00] = .ok .i2cProbe ∧
  decode .i2c [0x78, 0xAA, 0xAA, 0xAA, 0xAA, 0xAA, 0xAA, 0xAA, 0xAA] = .ok (.i2cPage 0x78 (List.replicate 8 0xAA)) ∧
  decode .serial [0b00000010, 0b01111111] = .ok .serEwen ∧
  decode .serial [0b00000010, 0b10101010, 0b01011010] = .ok (.serWrite 0x2A 0x5A) ∧
  decode .serial [0b00000011, 0b00101010, 0x00, 0x00] = .ok (.serRead 0x2A) ∧
  decode .serialReply [0xFF, 0xFF, 0xB4, 0x80] = .ok (.serReadReply 0x69) ∧
  decode .slave [0x68, 0x65] = .ok (.slaveFrame [0x68, 0x65])

/-- The bits of the value are bits 6:0 of reply byte 2 and bit 7 of reply byte 3, as the arithmetic on unbounded naturals
gives it; no reply is rejected, and every value is reachable (R103, R182). -/
def Obligations.ReadReplyBitMap : Prop :=
  (∀ r0 r1 r2 r3 : Byte, ∃ v : Byte, decode .serialReply [r0, r1, r2, r3] = .ok (.serReadReply v) ∧
    v.toNat = ((r2.toNat <<< 1) &&& 0xFE) ||| ((r3.toNat >>> 7) &&& 0x01) ∧
    (∀ k : Nat, k < 7 → v.getLsbD (k + 1) = r2.getLsbD k) ∧ v.getLsbD 0 = r3.getLsbD 7) ∧
  ∀ (r0 r1 v : Byte), decode .serialReply [r0, r1, v >>> 1, (v &&& 1) <<< 7] = .ok (.serReadReply v)

/-! The step. -/

/-- A host write of CMD runs the instruction that the code decodes to (R23, R91). That the code is the low byte of a wider
value is the model's choice (log 15). -/
def Obligations.StepRunsTheWrittenCommand : Prop :=
  ∀ (s : State) (v : Word) (rest : List Input) (i : Instr),
    s.inputs = .hostWrite 0 v :: rest → decode .command [v.setWidth 8] = .ok i →
    step s = exec i { s with inputs := rest }

/-- What the host itself does with the Transport between commands (R282, R288; the form is the model's, log 17). Bytes that it
hands to a connection are run as the instruction they decode to; bytes that are no frame of the block are carried by the
connection's own call; and any other Transport call with any arguments is one event, moves SEL as R34 says if it is a
transceive, and changes nothing else. -/
def Obligations.StepRunsTheDirectFrame : Prop :=
  (∀ (s : State) (c : Connection) (bytes : List Byte) (rest : List Input),
    s.inputs = .wire c bytes :: rest → s.busy = false →
    (∀ i, decode c.format bytes = .ok i → step s = exec i { s with inputs := rest }) ∧
    (∀ e, decode c.format bytes = .error e →
      (c = .i2c → s.peerWritten = true →
        step s = .next (State.afterCall { s with inputs := rest } (.write s.regs.peer bytes))) ∧
      (c = .i2c → s.peerWritten = false →
        step s = .next (State.afterCall { s with inputs := rest, draws := s.draws + 1 }
          (.write (Config.freeByte s.draws) bytes))) ∧
      (c = .serial → step s = .next (State.afterCall { s with inputs := rest } (.transceive bytes true))) ∧
      (c = .slave → step s = .next (State.afterCall { s with inputs := rest } (.slaveWrite bytes))) ∧
      (c = .serialReply → step s = .next { s with inputs := rest }))) ∧
  ∀ (s : State) (c : Call) (rest : List Input) (a : Answer) (as : List Answer),
    s.inputs = .transport c :: rest → s.busy = false → s.answers = a :: as →
    ((∀ p d, c ≠ .transceive p d) →
      step s = .next { s with inputs := rest, answers := as, hist := s.hist ++ [.call c a] }) ∧
    (∀ p d, c = .transceive p d →
      (isReplyOf p.length a → step s = .next { s with
        inputs := rest, answers := as, hist := s.hist ++ [.call c a], sel := if d then .deasserted else .asserted }) ∧
      (¬ isReplyOf p.length a → step s = .next { s with
        inputs := rest, answers := as, hist := s.hist ++ [.call c a], sel := .unknown }))

/-- While a command runs and the host has nothing to do, the step runs the wire frame that SEQ stands at (R27, R313), with
the bytes assembled from the latches and DBUF (R152, R174, R181, R212). -/
def Obligations.StepRunsTheFrameOfTheSequencerState : Prop :=
  ∀ s : State, s.inputs = [] → s.busy = true →
    (s.seq = .ackProbe → step s = exec .i2cProbe s) ∧
    (s.seq = .rdProbe → step s = exec .i2cProbe s) ∧
    (∀ payload, s.seq = .pgSend → dbufRead s.dbuf (s.idx * s.latch.pageSize.toNat) s.latch.pageSize.toNat = some payload →
      step s = exec (.i2cPage (BitVec.ofNat 8 (s.idx * s.latch.pageSize.toNat)) payload) s) ∧
    (s.seq = .enableWrites → step s = exec .serEwen s) ∧
    (s.seq = .wrCmd → s.cmd = 0x11 → step s = exec (.serWrite (s.latch.saddr.setWidth 7) s.latch.sdata) s) ∧
    (∀ d, s.seq = .wrCmd → s.cmd = 0x13 → bufGet .dbuf s.dbuf s.idx = some d →
      step s = exec (.serWrite (BitVec.ofNat 7 s.idx) d) s) ∧
    (s.seq = .wrPoll → step s = exec .serPoll s) ∧
    (s.seq = .wrCleanup → step s = exec .serIdle s) ∧
    (s.seq = .rdCmd → s.cmd = 0x12 → step s = exec (.serRead (s.latch.saddr.setWidth 7)) s) ∧
    (s.seq = .rdCmd → s.cmd = 0x14 → step s = exec (.serRead (BitVec.ofNat 7 s.idx)) s) ∧
    (∀ bytes, s.seq = .responding → s.phase = .reply → dbufRead s.dbuf 0 s.latch.rxTarget.toNat = some bytes →
      step s = exec (.slaveFrame bytes) s)

/-- An idle block with no act of the host pending does nothing (R271; the step that changes nothing is the model's reading,
log 13), and a use of the Transport by the host while a command runs, of bytes or of a call, is a fault (R282; log 17). -/
def Obligations.IdleBlockDoesNothing : Prop :=
  (∀ s : State, s.inputs = [] → s.busy = false → step s = .next s) ∧
  ∀ (s : State) (inp : Input) (rest : List Input),
    ((∃ c bytes, inp = .wire c bytes) ∨ (∃ c, inp = .transport c)) → s.inputs = inp :: rest → s.busy = true →
    step s = .fault .foreignTransaction

/-! Reset. -/

/-- What reset leaves, at the model's start and after RST (R38): every register, buffer and sequencer field has its value, the
history is not cleared, DBUF, PEER and LAST_STATUS hold no defined value. Two clauses are the model's reading: that the
uppercase table is ASCII (log 26), and that RST leaves DBUF, PEER and LAST_STATUS unwritten (log 29). -/
def Obligations.ResetLeavesTheStatedValues : Prop :=
  atReset State.reset ∧
  ∀ (s : State) (rest : List Input), s.busy = false → s.inputs = .rst :: rest →
    ∃ t : State, step s = .next t ∧ t.hist = s.hist ∧ t.inputs = rest ∧ atReset t

/-- R272, U14: RST while a command runs is refused by default, and abandons the command where the parameter says so: no event is
added, no result is written, and every register and field takes its reset value (log 5; the readings of log 26 and log 29
as at any reset). -/
def Obligations.ResetWhileBusyFollowsTheParameter : Prop :=
  ∀ (s : State) (rest : List Input), s.busy = true → s.inputs = .rst :: rest →
    (s.params.resetWhileBusy = .refuse → step s = .refused .resetWhileBusy) ∧
    (s.params.resetWhileBusy = .abandon →
      ∃ t : State, step s = .next t ∧ t.hist = s.hist ∧ t.inputs = rest ∧ atReset t)

/-- The reset state meets the invariant and the select-signal invariant. -/
def Obligations.ResetMeetsTheInvariants : Prop :=
  State.reset.inv = true ∧ State.reset.selOk = true

/-! Invariants of the whole machine. -/

/-- Every step keeps the invariant: STATUS agrees with SEQ (R24, R27), the buffers stay canonical and inside their sizes
(R84), the results are legal (R230, R234), every sequencer state belongs to its command and every counter stays within its
bound (R28, R215). -/
def Obligations.StepKeepsTheInvariant : Prop :=
  ∀ s t : State, s.inv = true → step s = .next t → t.inv = true

/-- The sequencer keeps the select-signal invariant (R176, R184): the signal is held from the first poll chunk to the cleanup,
the moment before the cleanup included (unknown only after a chunk that answered `Err`), and at every other moment it is not
asserted. -/
def Obligations.SequencerKeepsTheSelectSignal : Prop :=
  ∀ s t : State, s.inv = true → s.selOk = true → s.busy = true → seqStep s = .next t → t.selOk = true

/-- The sequencer moves only along the transition table (R313). The edges from RdProbe to AckStatus and from there to RdBulk,
in place of the one from RdProbe to RdBulk, when `pgreadProbeReadsStatus` is true, are U4 in the form of log 6, the model's
choice. -/
def Obligations.SequencerFollowsTheTransitionTable : Prop :=
  ∀ s t : State, s.inv = true → s.busy = true → seqStep s = .next t → seqEdge s.params s.cmd s.seq t.seq = true

/-- Under the invariant a running command always takes its step: it is neither refused nor at a fault. In any state at all the
sequencer is never refused, and its only faults are the spec's own (R39), each with what is missing: PEER, or a DBUF byte of
the frame to be sent. -/
def Obligations.RunningCommandIsNeverRefused : Prop :=
  (∀ s : State, s.inv = true → s.busy = true → ∃ t, seqStep s = .next t) ∧
  ∀ s : State, (∃ t, seqStep s = .next t) ∨ (seqStep s = .fault .unwrittenPeer ∧ s.peerWritten = false) ∨
    (seqStep s = .fault .unwrittenDbuf ∧
      ((s.seq = .pgSend ∧ dbufRead s.dbuf (s.idx * s.latch.pageSize.toNat) s.latch.pageSize.toNat = none) ∨
        (s.seq = .wrCmd ∧ s.cmd = 0x13 ∧ bufGet .dbuf s.dbuf s.idx = none) ∨
        (s.seq = .responding ∧ s.phase = .reply ∧ dbufRead s.dbuf 0 s.latch.rxTarget.toNat = none)))

/-- The history only grows, by at most one event a step (R3, R36, R79). -/
def Obligations.OneEventPerStep : Prop :=
  ∀ s t : State, step s = .next t → t.hist = s.hist ∨ ∃ e, t.hist = s.hist ++ [e]

/-- While a command runs the sequencer changes no latch, no parameter register but SDATA, no command code, no transform
table and no model parameter (R18, R31, R315). -/
def Obligations.SequencerLeavesTheParametersAlone : Prop :=
  ∀ s t : State, s.busy = true → seqStep s = .next t →
    t.latch = s.latch ∧ t.cmd = s.cmd ∧ t.xlut = s.xlut ∧ t.params = s.params ∧ t.inputs = s.inputs ∧
    t.regs = { s.regs with sdata := t.regs.sdata }

/-- A host access leaves the sequencer with its counters, the select shadow, the latches, the results and the history alone; a
read keeps every register and buffer; a write of a register changes no other register and no buffer; a write of a buffer
element changes no register (R21, R22). -/
def Obligations.HostAccessFrame : Prop :=
  ∀ (s t : State) (inp : Input) (rest : List Input), s.inputs = inp :: rest → step s = .next t →
    ((∃ n, inp = .hostRead n) ∨ (∃ n v, n ≠ 0 ∧ inp = .hostWrite n v) ∨ (∃ sp i, inp = .bufRead sp i) ∨
      (∃ sp i v, inp = .bufWrite sp i v)) →
    (t.seq = s.seq ∧ t.status = s.status ∧ t.cmd = s.cmd ∧ t.res = s.res ∧ t.latch = s.latch ∧ t.sel = s.sel ∧
      t.hist = s.hist ∧ t.unitstat = s.unitstat ∧ t.answers = s.answers ∧ t.params = s.params ∧ t.inputs = rest ∧
      t.att = s.att ∧ t.idx = s.idx ∧ t.filled = s.filled ∧ t.want = s.want ∧ t.phase = s.phase ∧
      t.outcome = s.outcome ∧ t.fails = s.fails ∧ t.first = s.first ∧ t.ackStatus = s.ackStatus ∧
      t.ackValid = s.ackValid ∧ t.lastStatusWritten = s.lastStatusWritten) ∧
    ((∃ n, inp = .hostRead n) ∨ (∃ sp i, inp = .bufRead sp i) →
      t.regs = s.regs ∧ t.dbuf = s.dbuf ∧ t.xlut = s.xlut ∧ t.peerWritten = s.peerWritten) ∧
    (∀ n v, inp = .hostWrite n v →
      (∀ m, m ≠ n → t.regValue m = s.regValue m) ∧ (n ≠ 2 → t.peerWritten = s.peerWritten) ∧
      t.dbuf = s.dbuf ∧ t.xlut = s.xlut ∧ t.reads = s.reads ∧ t.draws = s.draws) ∧
    (∀ sp i v, inp = .bufWrite sp i v →
      t.regs = s.regs ∧ t.peerWritten = s.peerWritten ∧ t.reads = s.reads ∧ t.draws = s.draws)

/-! Host accesses. -/

/-- R281: any host access while BUSY = 1 but a read of STATUS is a fault. -/
def Obligations.HostAccessWhileBusyFaults : Prop :=
  ∀ (s : State) (inp : Input) (rest : List Input), s.busy = true → s.inputs = inp :: rest →
    ((∃ n, n ≠ 1 ∧ inp = .hostRead n) ∨ (∃ n v, inp = .hostWrite n v) ∨ (∃ sp i, inp = .bufRead sp i) ∨
      (∃ sp i v, inp = .bufWrite sp i v)) →
    step s = .fault .hostWhileBusy

/-- A read of STATUS is always legal and gives BUSY in bit 0, DONE in bit 1, 0 above (R21, R22, R24). -/
def Obligations.StatusReadIsAlwaysLegal : Prop :=
  ∀ (s : State) (rest : List Input), s.inputs = .hostRead 1 :: rest →
    step s = .next { s with
      inputs := rest
      reads := s.reads ++ [(if s.busy then 1 else 0) + (if s.done then 2 else 0)] }

/-- A parameter register holds any value of its width, "write-any, read-back-same" (R22, R25), and no other register, no buffer
and no result changes. -/
def Obligations.ParameterRegistersReadBack : Prop :=
  ∀ (s : State) (n : Nat) (v : Word) (rest : List Input), s.busy = false → 2 ≤ n → n ≤ 13 → v.toNat < 2 ^ paramWidth n →
    s.inputs = .hostWrite n v :: .hostRead n :: rest →
    ∃ t : State, runFor 2 s = .next t ∧ t.reads = s.reads ++ [v] ∧ t.inputs = rest ∧
      t.regValue n = v ∧ (∀ m, m ≠ n → t.regValue m = s.regValue m) ∧
      (n = 2 → t.peerWritten = true) ∧ (n ≠ 2 → t.peerWritten = s.peerWritten) ∧
      t.dbuf = s.dbuf ∧ t.xlut = s.xlut ∧ t.unitstat = s.unitstat ∧ t.res = s.res ∧ t.latch = s.latch ∧
      t.seq = s.seq ∧ t.status = s.status ∧ t.cmd = s.cmd ∧ t.hist = s.hist ∧ t.draws = s.draws

/-- R22: the register numbers 14, 15 and 24 to 255 read 0, and a write to one has no effect. -/
def Obligations.MissingRegistersReadZero : Prop :=
  ∀ (s : State) (n : Nat) (v : Word) (rest : List Input), s.busy = false → (n = 14 ∨ n = 15 ∨ (24 ≤ n ∧ n ≤ 255)) →
    (s.inputs = .hostRead n :: rest → step s = .next { s with inputs := rest, reads := s.reads ++ [0] }) ∧
    (s.inputs = .hostWrite n v :: rest → step s = .next { s with inputs := rest })

/-- A host write of a buffer element changes that element and no other, and no other buffer (R21, R30, R33). -/
def Obligations.BufferWriteChangesOneElement : Prop :=
  ∀ (s : State) (sp : BufSpace) (i : Nat) (v : Byte) (rest : List Input), s.busy = false → s.inv = true →
    sp ≠ .unitstat → i < 256 → s.inputs = .bufWrite sp i v :: rest →
    ∃ t : State, step s = .next t ∧ bufGet sp (t.buffer sp) i = some v ∧
      (∀ j, j ≠ i → bufGet sp (t.buffer sp) j = bufGet sp (s.buffer sp) j) ∧
      (∀ sp', sp' ≠ sp → t.buffer sp' = s.buffer sp') ∧
      t.regs = s.regs ∧ t.res = s.res ∧ t.seq = s.seq ∧ t.hist = s.hist

/-- A host read of a never-written DBUF byte, PEER or LAST_STATUS gives a free value, a fresh one each time (R39; the counter of
the draws is the model's own, log 9, log 28). -/
def Obligations.UnwrittenReadsAreFree : Prop :=
  ∀ (s t : State) (rest : List Input), s.busy = false →
    t = { s with
      inputs := rest, draws := s.draws + 1, reads := s.reads ++ [(Config.freeByte s.draws).setWidth 32] } →
    (∀ i, i < 256 → s.inputs = .bufRead .dbuf i :: rest → bufGet .dbuf s.dbuf i = none → step s = .next t) ∧
    (s.inputs = .hostRead 2 :: rest → s.peerWritten = false → step s = .next t) ∧
    (s.inputs = .hostRead 20 :: rest → s.lastStatusWritten = false → step s = .next t)

/-- A command that would transmit a never-written DBUF byte, or hand a never-written PEER to the Transport, is a fault (R39,
R151, R186, R275), at its issue, before anything is sent; and in a state that no run reaches the step that would do it is.
That the preconditions on the registers are checked first, and that a command with nothing to send has no premise, is the
model's reading (log 10). -/
def Obligations.UnwrittenBytesAreNotTransmitted : Prop :=
  (∀ s : State, s.busy = false →
    (s.peerWritten = false → s.regs.retryLimit ≠ 0 → exec .waitrdy s = .fault .unwrittenPeer) ∧
    (s.peerWritten = false → ¬ violates s.regs .pgwrite → s.regs.len ≠ 0 → exec .pgwrite s = .fault .unwrittenPeer) ∧
    (s.peerWritten = false → ¬ violates s.regs .pgread → exec .pgread s = .fault .unwrittenPeer) ∧
    (s.peerWritten = true → ¬ violates s.regs .pgwrite → dbufRead s.dbuf 0 s.regs.len.toNat = none →
      exec .pgwrite s = .fault .unwrittenDbuf) ∧
    (¬ violates s.regs .ssweepw → dbufRead s.dbuf 0 s.regs.devSize.toNat = none →
      exec .ssweepw s = .fault .unwrittenDbuf)) ∧
  ∀ s : State, s.inputs = [] → s.busy = true →
    (s.seq = .pgSend → dbufRead s.dbuf (s.idx * s.latch.pageSize.toNat) s.latch.pageSize.toNat = none →
      step s = .fault .unwrittenDbuf) ∧
    (∀ payload, s.seq = .pgSend → s.peerWritten = false →
      dbufRead s.dbuf (s.idx * s.latch.pageSize.toNat) s.latch.pageSize.toNat = some payload →
      step s = .fault .unwrittenPeer) ∧
    (s.seq = .wrCmd → s.cmd = 0x13 → bufGet .dbuf s.dbuf s.idx = none → step s = .fault .unwrittenDbuf) ∧
    (s.seq = .responding → s.phase = .reply → dbufRead s.dbuf 0 s.latch.rxTarget.toNat = none →
      step s = .fault .unwrittenDbuf) ∧
    (s.peerWritten = false → (s.seq = .ackProbe ∨ s.seq = .ackStatus ∨ s.seq = .rdProbe ∨ s.seq = .rdBulk) →
      step s = .fault .unwrittenPeer)

/-! Command issue. -/

/-- Every command issued while BUSY = 0 with its launch premise met completes its issue: CMD holds the code, the parameters are
latched, the results of the last command are cleared, no Transport call is made, no register the host wrote, no DBUF byte and
no XLUT entry changes, and LAST_STATUS keeps its bits, but for NOP (R23, R26, R31, R92, R275, R318). -/
def Obligations.EveryCommandStarts : Prop :=
  ∀ (s : State) (i : Instr), i ∈ commandList → s.busy = false → launchable s i →
    ∃ t : State, exec i s = .next t ∧ t.cmd = i.code ∧ t.latch = s.regs ∧ t.regs = s.regs ∧
      t.hist = s.hist ∧ t.answers = s.answers ∧ t.dbuf = s.dbuf ∧ t.xlut = s.xlut ∧ t.sel = s.sel ∧
      t.inputs = s.inputs ∧ t.params = s.params ∧ t.peerWritten = s.peerWritten ∧
      t.res.cause = 0 ∧ t.res.unit = 0 ∧ t.res.attempts = 0 ∧ t.res.failcnt = 0 ∧ t.res.xfer = 0 ∧
      (i ≠ .nop → t.res.lastStatus = s.res.lastStatus) ∧ t.lastStatusValid = false ∧
      ((t.status = 0x01 ∧ t.seq ≠ .idle ∧ t.res.result = 0) ∨ (t.status = 0x02 ∧ t.seq = .idle))

/-- The issue of a command while BUSY = 1 is a hazard violation (R23, R281). -/
def Obligations.CommandIssueWhileBusyFaults : Prop :=
  ∀ (s : State) (i : Instr), i ∈ commandList → s.busy = true → exec i s = .fault .hostWhileBusy

/-- R93: the decoder is total on the 256 codes, ten commands and 246 reserved; writing a reserved code while BUSY = 0 starts
nothing on the Transport and ends at once with ProtocolViolation. -/
def Obligations.ReservedCodeIsProtocolViolation : Prop :=
  commandCodes.length = 10 ∧ commandCodes.Nodup ∧
  (∀ c : Byte, c ∈ commandCodes → ∃ i : Instr, i ∈ commandList ∧ decode .command [c] = .ok i) ∧
  (∀ c : Byte, c ∉ commandCodes → decode .command [c] = .error (.reservedCommand c)) ∧
  ∀ (s : State) (c : Byte) (rest : List Input), s.busy = false → s.inputs = .hostWrite 0 (c.setWidth 32) :: rest →
    c ∉ commandCodes →
    step s = .next { s.start c with
      inputs := rest
      status := 0x02
      seq := .idle
      res := resultsOf .protocolViolation 0 0 0 s.res.lastStatus 0x00 0 0 }

/-- NOP ends at once with Success, no call, and all other result registers 0, LAST_STATUS among them (R92; R26 keeps its bits at
the start of a command only, log 38). -/
def Obligations.NopSucceedsAtOnce : Prop :=
  ∀ s : State, s.busy = false →
    exec .nop s = .next { s.start 0x00 with
      status := 0x02
      seq := .idle
      lastStatusWritten := true
      res := resultsOf .success 0 0 0 0 0x01 0 0 }

/-- R233 (1) to (5): a failed precondition ends the command with ProtocolViolation, nothing sent and no buffer changed. -/
def Obligations.FailedPreconditionIsProtocolViolation : Prop :=
  ∀ (s : State) (i : Instr), s.busy = false → violates s.regs i →
    exec i s = .next { s.start i.code with
      status := 0x02
      seq := .idle
      res := resultsOf .protocolViolation 0 0 0 s.res.lastStatus 0x00 0 0 }

/-- A command whose preconditions and launch premise hold and whose bounds allow a first attempt enters its first sequencer
state, BUSY = 1 and nothing sent (R313). -/
def Obligations.LegalCommandsEnterTheirFirstState : Prop :=
  ∀ s : State, s.busy = false →
    (s.regs.retryLimit ≠ 0 → launchable s .waitrdy → exec .waitrdy s = .next { s.start 0x01 with seq := .ackProbe }) ∧
    (¬ violates s.regs .pgwrite → s.regs.len ≠ 0 → launchable s .pgwrite →
      exec .pgwrite s = .next { s.start 0x02 with seq := .pgSend }) ∧
    (¬ violates s.regs .pgread → launchable s .pgread → exec .pgread s = .next { s.start 0x03 with seq := .rdProbe }) ∧
    exec .sewen s = .next { s.start 0x10 with seq := .enableWrites } ∧
    (¬ violates s.regs .swrite → exec .swrite s = .next { s.start 0x11 with seq := .wrCmd }) ∧
    (¬ violates s.regs .sread → exec .sread s = .next { s.start 0x12 with seq := .rdCmd }) ∧
    (¬ violates s.regs .ssweepw → launchable s .ssweepw →
      exec .ssweepw s = .next { s.start 0x13 with seq := .sweepNext, unitstat := [] }) ∧
    (¬ violates s.regs .ssweepr → exec .ssweepr s = .next { s.start 0x14 with seq := .sweepNext, unitstat := [] }) ∧
    (¬ violates s.regs .rxframe → s.regs.rxPollLimit ≠ 0 →
      exec .rxframe s = .next { s.start 0x20 with seq := .receiving })

/-- A limit or a length of 0 ends the command at its issue (R136, R157 (a), R216): no call is made, and no launch premise is
asked. That LEN = 0 succeeds with a PAGE_SIZE above 256 too is R151 against R25's range, the model's reading (log 36). -/
def Obligations.ZeroLimitsEndAtOnce : Prop :=
  ∀ s : State, s.busy = false →
    (s.regs.retryLimit = 0 → ∃ t, exec .waitrdy s = .next t ∧ t.status = 0x02 ∧ t.hist = s.hist ∧
      t.res = resultsOf .busyTimeout 0 0 0 s.res.lastStatus 0x00 0 0) ∧
    (¬ violates s.regs .pgwrite → s.regs.len = 0 → ∃ t, exec .pgwrite s = .next t ∧ t.status = 0x02 ∧
      t.hist = s.hist ∧ t.res = resultsOf .success 0 0 0 s.res.lastStatus 0x01 0 0) ∧
    (¬ violates s.regs .rxframe → s.regs.rxPollLimit = 0 → ∃ t, exec .rxframe s = .next t ∧ t.status = 0x02 ∧
      t.hist = s.hist ∧ t.res = resultsOf .busyTimeout 0 0 0 s.res.lastStatus 0x00 0 0)

/-! The wire frames. -/

/-- I2C_PROBE (R94): one byte 0x00 to PEER. In an AckWait attempt (R132, R134) count 1 goes on to the status read, any other
answer ends a WAITRDY with TransportError and aborts a PGWRITE (R154), the failing attempt counted and the last status read
kept; as the probe of PGREAD (R160) count 1 goes on to the bulk read (to a status read first under U4), any other answer ends
it with TransportError. That LAST_STATUS_VALID says what this wait read, not what an earlier page's wait read, is R152 against
R29's sentence, the model's reading (log 23). -/
def Obligations.ProbeAttemptIsCounted : Prop :=
  ∀ (s : State) (a : Answer) (rest : List Answer), s.peerWritten = true → s.answers = a :: rest →
    (s.seq = .ackProbe → a = .count 1 → exec .i2cProbe s = .next { s with
      att := s.att + 1, seq := .ackStatus, answers := rest, hist := s.hist ++ [probeEvent s.latch.peer a] }) ∧
    (s.seq = .ackProbe → a ≠ .count 1 → s.cmd = 0x01 → exec .i2cProbe s = .next { s with
      att := s.att + 1, seq := .idle, status := 0x02, answers := rest
      hist := s.hist ++ [probeEvent s.latch.peer a]
      lastStatusWritten := s.lastStatusWritten || s.ackValid
      res := { s.res with
        result := 1
        attempts := BitVec.ofNat 32 (s.att + 1)
        lastStatus := if s.ackValid then s.ackStatus else s.res.lastStatus
        flags := if s.ackValid then 0x02 else 0x00 } }) ∧
    (s.seq = .ackProbe → a ≠ .count 1 → s.cmd = 0x02 → exec .i2cProbe s = .next { s with
      att := s.att + 1, seq := .idle, status := 0x02, answers := rest
      hist := s.hist ++ [probeEvent s.latch.peer a]
      lastStatusWritten := s.lastStatusWritten || s.ackValid
      res := { s.res with
        result := 4
        cause := 1
        unit := BitVec.ofNat 16 s.idx
        xfer := BitVec.ofNat 16 s.idx
        attempts := BitVec.ofNat 32 (s.att + 1)
        lastStatus := if s.ackValid then s.ackStatus else s.res.lastStatus
        flags := if s.ackValid then 0x02 else 0x00 } }) ∧
    (s.seq = .rdProbe → a = .count 1 → exec .i2cProbe s = .next { s with
      seq := if s.params.pgreadProbeReadsStatus then .ackStatus else .rdBulk
      answers := rest, hist := s.hist ++ [probeEvent s.latch.peer a] }) ∧
    (s.seq = .rdProbe → a ≠ .count 1 → exec .i2cProbe s = .next { s with
      seq := .idle, status := 0x02, answers := rest, hist := s.hist ++ [probeEvent s.latch.peer a]
      res := { s.res with result := 1, flags := s.res.flags &&& 0x02 } })

/-- I2C_PAGE (R95, R152, R153): the start address and the payload as one transaction; the full count starts the completion
wait (which with RETRY_LIMIT = 0 ends at once and aborts the command, R136, R157 (d)), any other answer aborts PGWRITE with
PartialFailure naming the page. -/
def Obligations.PageFrameIsSentOnce : Prop :=
  ∀ (s : State) (start : Byte) (payload : List Byte) (a : Answer) (rest : List Answer),
    s.seq = .pgSend → s.peerWritten = true → s.answers = a :: rest →
    (a = .count (payload.length + 1) → s.latch.retryLimit ≠ 0 → exec (.i2cPage start payload) s = .next { s with
      att := 0, ackValid := false, seq := .ackProbe, answers := rest
      hist := s.hist ++ [.call (.write s.latch.peer (start :: payload)) a] }) ∧
    (a = .count (payload.length + 1) → s.latch.retryLimit = 0 → s.cmd = 0x02 →
      exec (.i2cPage start payload) s = .next { s with
        att := 0, ackValid := false, seq := .idle, status := 0x02, answers := rest
        hist := s.hist ++ [.call (.write s.latch.peer (start :: payload)) a]
        res := { s.res with
          result := 4, cause := 2, unit := BitVec.ofNat 16 s.idx, xfer := BitVec.ofNat 16 s.idx, attempts := 0
          flags := 0x00 } }) ∧
    (a ≠ .count (payload.length + 1) → exec (.i2cPage start payload) s = .next { s with
      seq := .idle, status := 0x02, answers := rest
      hist := s.hist ++ [.call (.write s.latch.peer (start :: payload)) a]
      res := { s.res with
        result := 4, cause := 1, unit := BitVec.ofNat 16 s.idx, xfer := BitVec.ofNat 16 s.idx
        flags := s.res.flags &&& 0x02 } })

/-- SER_EWEN (R100, R171): two bytes, deasserted after; Success iff both were transferred, and after an `Err`, or an answer
that counts as one (R76), the select signal is unknown (R34). -/
def Obligations.WriteEnableFrameEndsTheCommand : Prop :=
  ∀ (s : State) (rest : List Answer), s.seq = .enableWrites →
    (∀ (r : List Byte) (n : Nat), r.length = 2 → n ≤ 2 → s.answers = .reply r n :: rest →
      exec .serEwen s = .next { s with
        seq := .idle, status := 0x02, answers := rest, sel := .deasserted
        hist := s.hist ++ [.call (.transceive [0x02, 0x7F] true) (.reply r n)]
        res := { s.res with
          result := if n = 2 then 0 else 1
          flags := (s.res.flags &&& 0x02) ||| (if n = 2 then 0x01 else 0x00) } }) ∧
    (∀ a : Answer, ¬ isReplyOf 2 a → s.answers = a :: rest →
      exec .serEwen s = .next { s with
        seq := .idle, status := 0x02, answers := rest, sel := .unknown
        hist := s.hist ++ [.call (.transceive [0x02, 0x7F] true) a]
        res := { s.res with result := 1, flags := s.res.flags &&& 0x02 } })

/-- SER_WRITE (R101, R174, R175, R180): three bytes with the opcode bit and the address, deasserted after; a full count goes
on to the busy-poll, or to the cleanup if no chunk is allowed; a short count or an `Err` ends the unit with TransportError and
no attempt made: a SWRITE ends with it, in SSWEEPW it is logged for the address (R187); under U5 the cleanup comes first. -/
def Obligations.WriteFrameStartsThePoll : Prop :=
  ∀ (s : State) (a : SerAddr) (d : Byte) (ans : Answer) (rest : List Answer), s.seq = .wrCmd → s.answers = ans :: rest →
    ∀ (e : List Event) (full : Bool) (sel : Sel), e = s.hist ++ [writeCommandEvent (a.setWidth 8) d ans] →
    ((∃ r : List Byte, r.length = 3 ∧ ans = .reply r 3 ∧ full = true ∧ sel = .deasserted) ∨
      (∃ (r : List Byte) (n : Nat), r.length = 3 ∧ n < 3 ∧ ans = .reply r n ∧ full = false ∧ sel = .deasserted) ∨
      (¬ isReplyOf 3 ans ∧ full = false ∧ sel = .unknown)) →
    (full = true → exec (.serWrite a d) s = .next { s with
      att := 0, outcome := .busyTimeout, answers := rest, sel := sel, hist := e
      seq := if s.latch.pollLimit = 0 then .wrCleanup else .wrPoll }) ∧
    (full = false → s.params.cleanupAfterCmdFailure = true → exec (.serWrite a d) s = .next { s with
      att := 0, outcome := .transportError, answers := rest, sel := sel, hist := e, seq := .wrCleanup }) ∧
    (full = false → s.params.cleanupAfterCmdFailure = false → s.cmd = 0x11 → exec (.serWrite a d) s = .next { s with
      att := 0, answers := rest, sel := sel, hist := e, seq := .idle, status := 0x02
      res := { s.res with result := 1, attempts := 0, flags := s.res.flags &&& 0x02 } }) ∧
    (full = false → s.params.cleanupAfterCmdFailure = false → s.cmd = 0x13 → s.inv = true →
      ∃ t : State, exec (.serWrite a d) s = .next t ∧ t.hist = e ∧ t.sel = sel ∧ t.answers = rest ∧
        bufGet .unitstat t.unitstat s.idx = some 1 ∧
        (∀ j, j ≠ s.idx → bufGet .unitstat t.unitstat j = bufGet .unitstat s.unitstat j) ∧
        t.res.xfer = BitVec.ofNat 16 (s.idx + 1) ∧ t.res.attempts = 0 ∧ t.regs = s.regs ∧ t.dbuf = s.dbuf)

/-- SER_POLL (R104, R176): ten zero bytes with the select signal held; a nonzero received byte means done, ten zero bytes
mean another chunk if the bound allows one and BusyTimeout if not, and a short count or an `Err` means TransportError; the
cleanup follows in every case but another chunk. -/
def Obligations.PollChunkDecidesTheOutcome : Prop :=
  ∀ (s : State) (rest : List Answer), s.seq = .wrPoll →
    (∀ (r : List Byte) (n : Nat), r.length = 10 → n ≤ 10 → s.answers = .reply r n :: rest →
      exec .serPoll s = .next { s with
        att := s.att + 1, answers := rest, sel := .asserted
        hist := s.hist ++ [chunkEvent (.reply r n)]
        seq :=
          if n = 10 ∧ r = List.replicate 10 0x00 ∧ s.att + 1 < s.latch.pollLimit.toNat then .wrPoll else .wrCleanup
        outcome :=
          if n ≠ 10 then .transportError
          else if r ≠ List.replicate 10 0x00 then .success
          else if s.att + 1 < s.latch.pollLimit.toNat then s.outcome
          else .busyTimeout }) ∧
    (∀ a : Answer, ¬ isReplyOf 10 a → s.answers = a :: rest →
      exec .serPoll s = .next { s with
        att := s.att + 1, answers := rest, sel := .unknown, hist := s.hist ++ [chunkEvent a]
        seq := .wrCleanup, outcome := .transportError })

/-- SER_IDLE (R105, R177): one zero byte, deasserted after; R178: the first failure wins, in a SWRITE and in a unit of a
sweep, where it is the kind logged for the unit. -/
def Obligations.CleanupEndsTheWrite : Prop :=
  ∀ (s : State) (a : Answer) (rest : List Answer), s.seq = .wrCleanup → s.answers = a :: rest →
    ∀ k : Kind, k = (if s.outcome = .success ∧ ¬ (∃ b, a = .reply [b] 1) then .transportError else s.outcome) →
    (s.cmd = 0x11 → ∃ t : State, exec .serIdle s = .next t ∧ t.seq = .idle ∧ t.status = 0x02 ∧
      t.hist = s.hist ++ [cleanupEvent a] ∧ t.res.result = k.code ∧ t.succeeded = decide (k = .success) ∧
      t.res.attempts = BitVec.ofNat 32 s.att ∧ t.regs = s.regs ∧ t.dbuf = s.dbuf ∧ t.unitstat = s.unitstat ∧
      (t.sel = .deasserted ∨ t.sel = .unknown)) ∧
    (s.cmd = 0x13 → s.inv = true → ∃ t : State, exec .serIdle s = .next t ∧
      t.hist = s.hist ++ [cleanupEvent a] ∧ bufGet .unitstat t.unitstat s.idx = some k.code ∧
      (∀ j, j ≠ s.idx → bufGet .unitstat t.unitstat j = bufGet .unitstat s.unitstat j) ∧
      t.res.xfer = BitVec.ofNat 16 (s.idx + 1) ∧ t.res.attempts = BitVec.ofNat 32 s.att ∧ t.regs = s.regs ∧
      t.dbuf = s.dbuf ∧ (t.sel = .deasserted ∨ t.sel = .unknown))

/-- SER_READ (R102, R103, R181, R188): four bytes, deasserted after; a full count stores the decoded value, in SDATA for a
SREAD and in DBUF[a] for SSWEEPR; a short one, or an `Err`, stores nothing and gives TransportError, to the SREAD or to the
address of the sweep. -/
def Obligations.ReadFrameStoresTheValue : Prop :=
  ∀ (s : State) (a : SerAddr) (rest : List Answer), s.seq = .rdCmd →
    (∀ (r0 r1 r2 r3 : Byte) (n : Nat), n ≤ 4 → s.answers = .reply [r0, r1, r2, r3] n :: rest → s.cmd = 0x12 →
      exec (.serRead a) s = .next { s with
        seq := .idle, status := 0x02, answers := rest, sel := .deasserted
        regs := { s.regs with
          sdata := if n = 4 then ((r2 <<< 1) &&& 0xFE#8) ||| ((r3 >>> 7) &&& 0x01#8) else s.regs.sdata }
        hist := s.hist ++ [readCommandEvent (a.setWidth 8) (.reply [r0, r1, r2, r3] n)]
        res := { s.res with
          result := if n = 4 then 0 else 1
          flags := (s.res.flags &&& 0x02) ||| (if n = 4 then 0x01 else 0x00) } }) ∧
    (∀ ans : Answer, ¬ isReplyOf 4 ans → s.answers = ans :: rest → s.cmd = 0x12 →
      exec (.serRead a) s = .next { s with
        seq := .idle, status := 0x02, answers := rest, sel := .unknown
        hist := s.hist ++ [readCommandEvent (a.setWidth 8) ans]
        res := { s.res with result := 1, flags := s.res.flags &&& 0x02 } }) ∧
    (∀ ans : Answer, ¬ isReplyOf 4 ans → s.answers = ans :: rest → s.cmd = 0x14 → s.inv = true →
      ∃ t : State, exec (.serRead a) s = .next t ∧ t.sel = .unknown ∧ t.answers = rest ∧
        t.hist = s.hist ++ [readCommandEvent (a.setWidth 8) ans] ∧ t.regs = s.regs ∧ t.dbuf = s.dbuf ∧
        bufGet .unitstat t.unitstat s.idx = some 1 ∧
        (∀ j, j ≠ s.idx → bufGet .unitstat t.unitstat j = bufGet .unitstat s.unitstat j) ∧
        t.res.xfer = BitVec.ofNat 16 (s.idx + 1)) ∧
    (∀ (r0 r1 r2 r3 : Byte) (n : Nat), n ≤ 4 → s.answers = .reply [r0, r1, r2, r3] n :: rest → s.cmd = 0x14 →
      s.inv = true → ∃ t : State, exec (.serRead a) s = .next t ∧
        t.hist = s.hist ++ [readCommandEvent (a.setWidth 8) (.reply [r0, r1, r2, r3] n)] ∧ t.regs = s.regs ∧
        bufGet .dbuf t.dbuf s.idx =
          (if n = 4 then some (((r2 <<< 1) &&& 0xFE#8) ||| ((r3 >>> 7) &&& 0x01#8)) else bufGet .dbuf s.dbuf s.idx) ∧
        (∀ j, j ≠ s.idx → bufGet .dbuf t.dbuf j = bufGet .dbuf s.dbuf j) ∧
        bufGet .unitstat t.unitstat s.idx = some (if n = 4 then 0 else 1) ∧
        (∀ j, j ≠ s.idx → bufGet .unitstat t.unitstat j = bufGet .unitstat s.unitstat j) ∧
        t.res.xfer = BitVec.ofNat 16 (s.idx + 1))

/-- SER_READ_REPLY (R103, R181, R188): the value goes to SDATA in a SREAD and to DBUF[a] in a sweep, no other DBUF byte
changes; with no read in progress nothing happens (R236). The spec gives the reply a meaning only inside the answer of the
SER_READ call: that it is an instruction of its own, which at RdCmd ends the read with no event and elsewhere does nothing,
is the model's reading in all three clauses (log 18). -/
def Obligations.ReadReplyIsStored : Prop :=
  ∀ (s : State) (v : Byte),
    (s.seq = .rdCmd → s.cmd = 0x12 → exec (.serReadReply v) s = .next { s with
      seq := .idle, status := 0x02, regs := { s.regs with sdata := v }
      res := { s.res with result := 0, flags := (s.res.flags &&& 0x02) ||| 0x01 } }) ∧
    (s.seq = .rdCmd → s.cmd = 0x14 → s.inv = true → ∃ t, exec (.serReadReply v) s = .next t ∧
      bufGet .dbuf t.dbuf s.idx = some v ∧ (∀ j, j ≠ s.idx → bufGet .dbuf t.dbuf j = bufGet .dbuf s.dbuf j) ∧
      bufGet .unitstat t.unitstat s.idx = some 0 ∧
      (∀ j, j ≠ s.idx → bufGet .unitstat t.unitstat j = bufGet .unitstat s.unitstat j) ∧
      t.res.xfer = BitVec.ofNat 16 (s.idx + 1) ∧ t.regs = s.regs ∧ t.hist = s.hist) ∧
    (s.seq ≠ .rdCmd → exec (.serReadReply v) s = .next s)

/-- SLAVE_FRAME (R106, R212, R220): the bytes as one reply; the full count leaves the post-delay, any other answer gives
TransportError without it. -/
def Obligations.ReplyFrameIsSentOnce : Prop :=
  ∀ (s : State) (bytes : List Byte) (a : Answer) (rest : List Answer), s.seq = .responding → s.phase = .reply →
    s.answers = a :: rest →
    (a = .count bytes.length → exec (.slaveFrame bytes) s = .next { s with
      phase := .postDelay, answers := rest, hist := s.hist ++ [.call (.slaveWrite bytes) a] }) ∧
    (a ≠ .count bytes.length → exec (.slaveFrame bytes) s = .next { s with
      seq := .idle, status := 0x02, answers := rest, hist := s.hist ++ [.call (.slaveWrite bytes) a]
      res := { s.res with result := 1, flags := s.res.flags &&& 0x02 } })

/-- A frame that the host hands over while no command runs is one call, and the block keeps everything else (R282, R288; log 17):
a serial frame is one transceive and moves SEL as R34 says; an I2C frame is one write, to PEER if something has written it
and to a free peer otherwise; a slave frame is one slaveWrite. While a command runs, a frame at which SEQ does not stand is
refused by name. -/
def Obligations.DirectFrameOnlyRecordsTheCall : Prop :=
  (∀ (s : State) (i : Instr) (r : List Byte) (n : Nat) (rest : List Answer), s.seq = .idle → i.format = .serial →
    r.length = (encode i).length → n ≤ r.length → s.answers = .reply r n :: rest →
    exec i s = .next { s with
      answers := rest
      hist := s.hist ++ [.call (.transceive (encode i) (decide (i ≠ .serPoll))) (.reply r n)]
      sel := if i = .serPoll then .asserted else .deasserted }) ∧
  (∀ (s : State) (i : Instr) (a : Answer) (rest : List Answer), s.seq = .idle → i.format = .serial →
    ¬ isReplyOf (encode i).length a → s.answers = a :: rest →
    exec i s = .next { s with
      answers := rest, sel := .unknown
      hist := s.hist ++ [.call (.transceive (encode i) (decide (i ≠ .serPoll))) a] }) ∧
  (∀ (s : State) (i : Instr) (a : Answer) (rest : List Answer), s.seq = .idle → i.format = .i2c →
    s.answers = a :: rest →
    (s.peerWritten = true → exec i s = .next { s with
      answers := rest, hist := s.hist ++ [.call (.write s.regs.peer (encode i)) a] }) ∧
    (s.peerWritten = false → exec i s = .next { s with
      answers := rest, draws := s.draws + 1
      hist := s.hist ++ [.call (.write (Config.freeByte s.draws) (encode i)) a] })) ∧
  (∀ (s : State) (bytes : List Byte) (a : Answer) (rest : List Answer), s.seq = .idle → s.answers = a :: rest →
    exec (.slaveFrame bytes) s = .next { s with
      answers := rest, hist := s.hist ++ [.call (.slaveWrite bytes) a] }) ∧
  ∀ (s : State) (i : Instr), s.seq ≠ .idle → i.format ≠ .command → i.format ≠ .serialReply → ¬ atTurn s i →
    exec i s = .refused .frameOutOfTurn

/-- R133: the classification in its priority order, and what it does in a wait, WAITRDY's or PGWRITE's: a status that is not
busy, not idle and not address-nacked is success; every other of the eight combinations continues, or ends the wait when no
attempt is left (R135, R237). A status read that answers no status ends the wait with TransportError (R134), keeping what
earlier attempts read. Two clauses are the model's choice: that PGREAD under U4 reads its status at AckStatus, ignores its
value, and fails with TransportError if none comes (log 6); and that FLAGS after a wait of PGWRITE shows only what this wait
read, not what an earlier page's wait read, which is R152 against R29's sentence (log 23). -/
def Obligations.StatusClassification : Prop :=
  (∀ (p : Params) (c : Byte),
    (p.isBusy c = true → classify p c = .busy) ∧
    (p.isBusy c = false → p.isIdle c = true → classify p c = .idle) ∧
    (p.isBusy c = false → p.isIdle c = false → p.isAddrNacked c = false → classify p c = .ack) ∧
    (p.isBusy c = false → p.isIdle c = false → p.isAddrNacked c = true → classify p c = .nack)) ∧
  (∀ (s : State) (a : Answer) (rest : List Answer) (e : List Event), s.inputs = [] → s.busy = true →
    s.seq = .ackStatus → s.peerWritten = true → s.answers = a :: rest →
    e = s.hist ++ [.call (.getStatus s.latch.peer) a] →
    ((∀ c, a ≠ .status c) → s.cmd = 0x01 → step s = .next { s with
      seq := .idle, status := 0x02, answers := rest, hist := e
      lastStatusWritten := s.lastStatusWritten || s.ackValid
      res := { s.res with
        result := 1
        attempts := BitVec.ofNat 32 s.att
        lastStatus := if s.ackValid then s.ackStatus else s.res.lastStatus
        flags := if s.ackValid then 0x02 else 0x00 } }) ∧
    ((∀ c, a ≠ .status c) → s.cmd = 0x02 → step s = .next { s with
      seq := .idle, status := 0x02, answers := rest, hist := e
      lastStatusWritten := s.lastStatusWritten || s.ackValid
      res := { s.res with
        result := 4
        cause := 1
        unit := BitVec.ofNat 16 s.idx
        xfer := BitVec.ofNat 16 s.idx
        attempts := BitVec.ofNat 32 s.att
        lastStatus := if s.ackValid then s.ackStatus else s.res.lastStatus
        flags := if s.ackValid then 0x02 else 0x00 } }) ∧
    ((∀ c, a ≠ .status c) → s.cmd = 0x03 → step s = .next { s with
      seq := .idle, status := 0x02, answers := rest, hist := e
      res := { s.res with result := 1, flags := s.res.flags &&& 0x02 } }) ∧
    ((∃ c, a = .status c) → s.cmd = 0x03 → step s = .next { s with seq := .rdBulk, answers := rest, hist := e })) ∧
  ∀ (s : State) (c : Byte) (rest : List Answer), s.inputs = [] → s.busy = true → s.seq = .ackStatus →
    (s.cmd = 0x01 ∨ s.cmd = 0x02) → s.peerWritten = true → s.answers = .status c :: rest →
    ∃ t : State, step s = .next t ∧ t.hist = s.hist ++ [.call (.getStatus s.latch.peer) (.status c)] ∧
      t.att = s.att ∧ t.dbuf = s.dbuf ∧ t.regs = s.regs ∧ t.ackStatus = c ∧ t.ackValid = true ∧
      (classify s.params c ≠ .ack → s.att < s.latch.retryLimit.toNat →
        t.seq = .ackProbe ∧ t.status = s.status ∧ t.idx = s.idx ∧ t.res = s.res) ∧
      (classify s.params c ≠ .ack → s.latch.retryLimit.toNat ≤ s.att →
        t.seq = .idle ∧ t.status = 0x02 ∧ t.res.lastStatus = c ∧ t.res.flags = 0x02 ∧
        t.res.attempts = BitVec.ofNat 32 s.att ∧ (s.cmd = 0x01 → t.res.result = 2) ∧
        (s.cmd = 0x02 → t.res.result = 4 ∧ t.res.cause = 2 ∧ t.res.unit = BitVec.ofNat 16 s.idx ∧
          t.res.xfer = BitVec.ofNat 16 s.idx)) ∧
      (classify s.params c = .ack → t.res.lastStatus = c ∧ t.lastStatusValid = true ∧
        t.res.attempts = BitVec.ofNat 32 s.att ∧
        (s.cmd = 0x01 ∨ s.latch.pageCount ≤ s.idx + 1 → t.seq = .idle ∧ t.status = 0x02 ∧ t.res.result = 0 ∧
          t.res.flags = 0x03) ∧
        (s.cmd = 0x02 → s.idx + 1 < s.latch.pageCount → t.seq = .pgSend ∧ t.idx = s.idx + 1 ∧ t.status = s.status))

/-! Whole commands. -/

/-- WAITRDY succeeds at the first attempt whose status confirms readiness, the k-th: k probes, k status reads, ATTEMPTS = k
(R131, R132, R137). -/
def Obligations.WaitrdySucceedsAtTheConfirmingAttempt : Prop :=
  ∀ (s : State) (cs : List Byte) (c : Byte) (rest : List Answer), s.busy = false → s.inputs = [] →
    s.peerWritten = true → (∀ x ∈ cs, confirms s.params x = false) → confirms s.params c = true →
    cs.length + 1 ≤ s.regs.retryLimit.toNat → s.answers = attemptScript (cs ++ [c]) ++ rest →
    ∃ t : State, exec .waitrdy s = .next t ∧ runFor (2 * (cs.length + 1)) t = .next { s.start 0x01 with
      status := 0x02
      seq := .idle
      res := resultsOf .success 0 0 (BitVec.ofNat 32 (cs.length + 1)) c 0x03 0 0
      att := cs.length + 1
      ackStatus := c
      ackValid := true
      lastStatusWritten := true
      answers := rest
      hist := s.hist ++ attemptEvents s.regs.peer (cs ++ [c]) }

/-- WAITRDY makes exactly RETRY_LIMIT attempts when none confirms readiness, and ends with BusyTimeout, the last status and
the attempt count (R135, R137). -/
def Obligations.WaitrdyExhaustsItsLimit : Prop :=
  ∀ (s : State) (cs : List Byte) (c : Byte) (rest : List Answer), s.busy = false → s.inputs = [] →
    s.peerWritten = true → (∀ x ∈ cs ++ [c], confirms s.params x = false) →
    cs.length + 1 = s.regs.retryLimit.toNat → s.answers = attemptScript (cs ++ [c]) ++ rest →
    ∃ t : State, exec .waitrdy s = .next t ∧ runFor (2 * (cs.length + 1)) t = .next { s.start 0x01 with
      status := 0x02
      seq := .idle
      res := resultsOf .busyTimeout 0 0 s.regs.retryLimit c 0x02 0 0
      att := cs.length + 1
      ackStatus := c
      ackValid := true
      lastStatusWritten := true
      answers := rest
      hist := s.hist ++ attemptEvents s.regs.peer (cs ++ [c]) }

/-- PGWRITE sends every page in ascending address order, each followed by its completion wait, and reports the page count
(R152, R155, R156). -/
def Obligations.PgwriteSendsEveryPageInOrder : Prop :=
  ∀ (s : State) (data : List Byte) (c : Byte) (rest : List Answer), s.busy = false → s.inputs = [] →
    s.peerWritten = true → ¬ violates s.regs .pgwrite → s.regs.len ≠ 0 → s.regs.retryLimit ≠ 0 →
    confirms s.params c = true → dbufRead s.dbuf 0 s.regs.len.toNat = some data →
    s.answers = pageScript s.regs.pageSize.toNat c s.regs.pageCount ++ rest →
    ∃ t u : State, exec .pgwrite s = .next t ∧ runFor (3 * s.regs.pageCount) t = .next u ∧
      u.res = resultsOf .success 0 0 1 c 0x03 0 (BitVec.ofNat 16 s.regs.pageCount) ∧
      u.status = 0x02 ∧ u.seq = .idle ∧ u.answers = rest ∧ u.regs = s.regs ∧ u.dbuf = s.dbuf ∧
      u.unitstat = s.unitstat ∧ u.sel = s.sel ∧
      u.hist = s.hist ++ pageEvents s.regs.peer s.regs.pageSize.toNat c data s.regs.pageCount

/-- PGWRITE aborts at the first page whose write does not answer its full count, and sends nothing after it (R153). -/
def Obligations.PgwriteAbortsAtAShortPage : Prop :=
  ∀ (s : State) (data : List Byte) (c : Byte) (k : Nat) (a : Answer) (rest : List Answer), s.busy = false →
    s.inputs = [] → s.peerWritten = true → ¬ violates s.regs .pgwrite → s.regs.retryLimit ≠ 0 →
    confirms s.params c = true → dbufRead s.dbuf 0 s.regs.len.toNat = some data → k < s.regs.pageCount →
    a ≠ .count (s.regs.pageSize.toNat + 1) →
    s.answers = pageScript s.regs.pageSize.toNat c k ++ a :: rest →
    ∃ t u : State, exec .pgwrite s = .next t ∧ runFor (3 * k + 1) t = .next u ∧
      u.status = 0x02 ∧ u.res.result = 4 ∧ u.res.cause = 1 ∧ u.res.unit = BitVec.ofNat 16 k ∧
      u.res.xfer = BitVec.ofNat 16 k ∧ u.succeeded = false ∧ u.answers = rest ∧ u.dbuf = s.dbuf ∧
      u.hist = s.hist ++ pageEvents s.regs.peer s.regs.pageSize.toNat c data k ++
        [.call (.write s.regs.peer (pageBytes s.regs.pageSize.toNat data k)) a]

/-- PGREAD makes one probe and one bulk read, stores what came, and succeeds iff all of LEN came (R159, R160, R161; the
probe without a status read is the spec's default, U4). A read that answers `Err`, or anything else that is not at most LEN
bytes (R76), gives TransportError with XFER = 0 and DBUF untouched. -/
def Obligations.PgreadStoresWhatCame : Prop :=
  (∀ (s : State) (a : Answer) (rest : List Answer), s.busy = false → s.inputs = [] →
    s.peerWritten = true → s.params.pgreadProbeReadsStatus = false → ¬ violates s.regs .pgread →
    (¬ ∃ b, b.length ≤ s.regs.len.toNat ∧ a = .bytes b) → s.answers = .count 1 :: a :: rest →
    ∃ t : State, exec .pgread s = .next t ∧ runFor 2 t = .next { s.start 0x03 with
      status := 0x02
      seq := .idle
      answers := rest
      res := resultsOf .transportError 0 0 0 s.res.lastStatus 0x00 0 0
      hist := s.hist ++ [probeEvent s.regs.peer (.count 1), .call (.read s.regs.peer s.regs.len.toNat) a] }) ∧
  ∀ (s : State) (b : List Byte) (rest : List Answer), s.busy = false → s.inputs = [] → s.inv = true →
    s.peerWritten = true → s.params.pgreadProbeReadsStatus = false → ¬ violates s.regs .pgread →
    b.length ≤ s.regs.len.toNat → s.answers = .count 1 :: .bytes b :: rest →
    ∃ t u : State, exec .pgread s = .next t ∧ runFor 2 t = .next u ∧
      u.status = 0x02 ∧ u.regs = s.regs ∧ u.unitstat = s.unitstat ∧ u.sel = s.sel ∧ u.answers = rest ∧
      u.res = resultsOf (if b.length = s.regs.len.toNat then .success else .transportError) 0 0 0 s.res.lastStatus
        (if b.length = s.regs.len.toNat then 0x01 else 0x00) 0 (BitVec.ofNat 16 b.length) ∧
      (∀ i, i < b.length → bufGet .dbuf u.dbuf i = b[i]?) ∧
      (∀ i, b.length ≤ i → bufGet .dbuf u.dbuf i = bufGet .dbuf s.dbuf i) ∧
      u.hist = s.hist ++ [probeEvent s.regs.peer (.count 1),
        .call (.read s.regs.peer s.regs.len.toNat) (.bytes b)]

/-- SEWEN is one transceive (R171). -/
def Obligations.SewenIsOneTransceive : Prop :=
  ∀ (s : State) (r0 r1 : Byte) (rest : List Answer), s.busy = false → s.inputs = [] →
    s.answers = .reply [r0, r1] 2 :: rest →
    ∃ t : State, exec .sewen s = .next t ∧ runFor 1 t = .next { s.start 0x10 with
      status := 0x02
      seq := .idle
      sel := .deasserted
      answers := rest
      res := resultsOf .success 0 0 0 s.res.lastStatus 0x01 0 0
      hist := s.hist ++ [.call (.transceive [0x02, 0x7F] true) (.reply [r0, r1] 2)] }

/-- SWRITE is done at the chunk that shows a nonzero byte, the k-th: the command, k chunks, the cleanup, ATTEMPTS = k (R174,
R176, R179). -/
def Obligations.SwriteIsDoneAtTheNonzeroChunk : Prop :=
  ∀ (s : State) (k : Nat) (r w : List Byte) (x : Byte) (rest : List Answer), s.busy = false → s.inputs = [] →
    ¬ violates s.regs .swrite → k + 1 ≤ s.regs.pollLimit.toNat → w.length = 3 → r.length = 10 →
    r ≠ List.replicate 10 0x00 →
    s.answers = .reply w 3 :: (List.replicate k stillBusy ++ .reply r 10 :: .reply [x] 1 :: rest) →
    ∃ t : State, exec .swrite s = .next t ∧ runFor (k + 3) t = .next { s.start 0x11 with
      status := 0x02
      seq := .idle
      sel := .deasserted
      att := k + 1
      outcome := .success
      answers := rest
      res := resultsOf .success 0 0 (BitVec.ofNat 32 (k + 1)) s.res.lastStatus 0x01 0 0
      hist := s.hist ++ writeCommandEvent s.regs.saddr s.regs.sdata (.reply w 3) ::
        (List.replicate k (chunkEvent stillBusy) ++ [chunkEvent (.reply r 10), cleanupEvent (.reply [x] 1)]) }

/-- SWRITE gives up after POLL_LIMIT chunks of zeros; the cleanup follows all the same and its answer changes nothing (R176,
R177, R178, R179, R180). -/
def Obligations.SwriteExhaustsItsLimit : Prop :=
  ∀ (s : State) (w : List Byte) (a : Answer) (rest : List Answer), s.busy = false → s.inputs = [] →
    ¬ violates s.regs .swrite → w.length = 3 →
    s.answers = .reply w 3 :: (List.replicate s.regs.pollLimit.toNat stillBusy ++ a :: rest) →
    ∃ t u : State, exec .swrite s = .next t ∧ runFor (s.regs.pollLimit.toNat + 2) t = .next u ∧
      u.status = 0x02 ∧ u.seq = .idle ∧ u.answers = rest ∧ u.regs = s.regs ∧ u.dbuf = s.dbuf ∧
      u.res = resultsOf .busyTimeout 0 0 s.regs.pollLimit s.res.lastStatus 0x00 0 0 ∧
      u.hist = s.hist ++ writeCommandEvent s.regs.saddr s.regs.sdata (.reply w 3) ::
        (List.replicate s.regs.pollLimit.toNat (chunkEvent stillBusy) ++ [cleanupEvent a])

/-- SREAD is one transceive whose reply gives SDATA (R181). -/
def Obligations.SreadReadsOneByte : Prop :=
  ∀ (s : State) (r0 r1 r2 r3 : Byte) (rest : List Answer), s.busy = false → s.inputs = [] →
    ¬ violates s.regs .sread → s.answers = .reply [r0, r1, r2, r3] 4 :: rest →
    ∃ t : State, exec .sread s = .next t ∧ runFor 1 t = .next { s.start 0x12 with
      status := 0x02
      seq := .idle
      sel := .deasserted
      answers := rest
      regs := { s.regs with sdata := ((r2 <<< 1) &&& 0xFE#8) ||| ((r3 >>> 7) &&& 0x01#8) }
      res := resultsOf .success 0 0 0 s.res.lastStatus 0x01 0 0
      hist := s.hist ++ [readCommandEvent s.regs.saddr (.reply [r0, r1, r2, r3] 4)] }

/-- SSWEEPR attempts every address whatever the Transport answers (R188, R189): one transceive for each address in ascending
order; each address's log entry and its DBUF byte are what its answer says, every other entry is "not attempted" and every
other byte is as before; FAILCNT is the number of failed addresses, UNIT the lowest and CAUSE its entry (R234), XFER =
DEV_SIZE. -/
def Obligations.ReadSweepAttemptsEveryAddress : Prop :=
  ∀ s : State, s.busy = false → s.inputs = [] → s.inv = true → ¬ violates s.regs .ssweepr →
    ∃ t u : State, ∃ answers : List Answer, exec .ssweepr s = .next t ∧
      runFor (2 * s.regs.devSize.toNat) t = .next u ∧ u.status = 0x02 ∧ u.seq = .idle ∧ u.regs = s.regs ∧
      u.res = sweepResults u.unitstat s.regs.devSize.toNat 0 s.res.lastStatus ∧
      answers.length = s.regs.devSize.toNat ∧
      (∀ a ans, answers[a]? = some ans →
        bufGet .unitstat u.unitstat a = some (if (readValueOf ans).isSome then 0 else 1) ∧
        bufGet .dbuf u.dbuf a = (readValueOf ans).or (bufGet .dbuf s.dbuf a)) ∧
      (∀ a, s.regs.devSize.toNat ≤ a →
        bufGet .unitstat u.unitstat a = some 0xFF ∧ bufGet .dbuf u.dbuf a = bufGet .dbuf s.dbuf a) ∧
      u.hist = s.hist ++ answers.mapIdx (fun a ans => readCommandEvent (BitVec.ofNat 8 a) ans)

/-- SSWEEPW attempts every address whatever the Transport answers (R187, R189): the write commands it sends are those of the
addresses below DEV_SIZE, once each, in ascending order, each with its DBUF byte; each of these addresses has its log entry,
every other is "not attempted"; FAILCNT is the number of failed addresses, UNIT the lowest and CAUSE its entry (R234), XFER =
DEV_SIZE, and DBUF is unchanged. -/
def Obligations.WriteSweepAttemptsEveryAddress : Prop :=
  ∀ (s : State) (data : List Byte), s.busy = false → s.inputs = [] → s.inv = true → ¬ violates s.regs .ssweepw →
    dbufRead s.dbuf 0 s.regs.devSize.toNat = some data →
    ∃ (t u : State) (n : Nat) (events : List Event), exec .ssweepw s = .next t ∧ runFor n t = .next u ∧
      u.status = 0x02 ∧ u.seq = .idle ∧ u.regs = s.regs ∧ u.dbuf = s.dbuf ∧
      u.res = sweepResults u.unitstat s.regs.devSize.toNat u.res.attempts s.res.lastStatus ∧
      (∀ a, a < s.regs.devSize.toNat → ∃ v : Byte, bufGet .unitstat u.unitstat a = some v ∧ v.toNat ≤ 2) ∧
      (∀ a, s.regs.devSize.toNat ≤ a → bufGet .unitstat u.unitstat a = some 0xFF) ∧
      u.hist = s.hist ++ events ∧
      events.filterMap writeCommandOf = data.mapIdx (fun a d => (0x80 ||| BitVec.ofNat 8 a, d))

/-- RXFRAME assembles the frame from bursts of any sizes, stops polling when it is full, applies the transform once to every
byte, and sends one reply between its two delays (R212, R215, R218, R222). -/
def Obligations.RxframeAssemblesTransformsAndReplies : Prop :=
  ∀ (s : State) (bursts : List (List Byte)) (rest : List Answer), s.busy = false → s.inputs = [] → s.inv = true →
    ¬ violates s.regs .rxframe → (∀ b ∈ bursts, b ≠ []) → bursts.flatten.length = s.regs.rxTarget.toNat →
    bursts.length ≤ s.regs.rxPollLimit.toNat →
    s.answers = burstScript bursts ++ .count s.regs.rxTarget.toNat :: rest →
    ∃ t u : State, exec .rxframe s = .next t ∧ runFor (2 * bursts.length + 4) t = .next u ∧
      u.status = 0x02 ∧ u.seq = .idle ∧ u.answers = rest ∧ u.regs = s.regs ∧ u.unitstat = s.unitstat ∧ u.sel = s.sel ∧
      u.res = resultsOf .success 0 0 (BitVec.ofNat 32 bursts.length) s.res.lastStatus 0x01 0 s.regs.rxTarget ∧
      dbufRead u.dbuf 0 s.regs.rxTarget.toNat = some (bursts.flatten.map (xlutAt s.xlut)) ∧
      (∀ i, s.regs.rxTarget.toNat ≤ i → bufGet .dbuf u.dbuf i = bufGet .dbuf s.dbuf i) ∧
      u.hist = s.hist ++ burstEvents bursts ++ [.delay s.regs.settlePre,
        .call (.slaveWrite (bursts.flatten.map (xlutAt s.xlut))) (.count s.regs.rxTarget.toNat),
        .delay s.regs.settlePost]

/-- RXFRAME gives up after RX_POLL_LIMIT polls that report nothing: BusyTimeout, no reply and no delay (R213, R217). -/
def Obligations.RxframeTimesOut : Prop :=
  ∀ (s : State) (rest : List Answer), s.busy = false → s.inputs = [] → ¬ violates s.regs .rxframe →
    s.answers = List.replicate s.regs.rxPollLimit.toNat (.count 0) ++ rest →
    ∃ t u : State, exec .rxframe s = .next t ∧ runFor s.regs.rxPollLimit.toNat t = .next u ∧
      u.status = 0x02 ∧ u.seq = .idle ∧ u.answers = rest ∧ u.dbuf = s.dbuf ∧ u.regs = s.regs ∧
      u.res = resultsOf .busyTimeout 0 0 s.regs.rxPollLimit s.res.lastStatus 0x00 0 0 ∧
      u.hist = s.hist ++ List.replicate s.regs.rxPollLimit.toNat (.call .bytesAvailable (.count 0))

/-- R214: a burst read never asks for more than the frame still lacks, whatever the backlog: the poll that reports `k` bytes
is followed by one read of `min(k, target - filled)`, the bytes that come go to the tail of the frame and count as what came,
and no second read follows; a read that completes the frame is followed by no poll (R215). A poll or a read that answers
`Err`, or anything outside its contract (R76), ends RXFRAME with TransportError, ATTEMPTS the polls made, XFER the bytes
that had come, and DBUF untouched (R219). -/
def Obligations.BurstReadNeverOverruns : Prop :=
  (∀ (s : State) (a : Answer) (rest : List Answer), s.inputs = [] → s.busy = true → s.seq = .receiving →
    s.answers = a :: rest →
    (s.want = 0 → (∀ k, a ≠ .count k) → step s = .next { s with
      att := s.att + 1, seq := .idle, status := 0x02, answers := rest, hist := s.hist ++ [.call .bytesAvailable a]
      res := { s.res with
        result := 1, attempts := BitVec.ofNat 32 (s.att + 1), xfer := BitVec.ofNat 16 s.filled
        flags := s.res.flags &&& 0x02 } }) ∧
    (s.want ≠ 0 → (¬ ∃ b, b.length ≤ s.want ∧ a = .bytes b) → step s = .next { s with
      seq := .idle, status := 0x02, answers := rest, hist := s.hist ++ [.call (.slaveRead s.want) a]
      res := { s.res with
        result := 1, attempts := BitVec.ofNat 32 s.att, xfer := BitVec.ofNat 16 s.filled
        flags := s.res.flags &&& 0x02 } })) ∧
  ∀ (s : State) (k : Nat) (b : List Byte) (rest : List Answer), s.inputs = [] → s.busy = true → s.inv = true →
    s.seq = .receiving → s.want = 0 → 0 < k → b.length ≤ min k (s.latch.rxTarget.toNat - s.filled) →
    s.answers = .count k :: .bytes b :: rest →
    1 ≤ min k (s.latch.rxTarget.toNat - s.filled) ∧
    ∃ t : State, runFor 2 s = .next t ∧ t.filled = s.filled + b.length ∧ t.filled ≤ s.latch.rxTarget.toNat ∧
      t.hist = s.hist ++ [.call .bytesAvailable (.count k),
        .call (.slaveRead (min k (s.latch.rxTarget.toNat - s.filled))) (.bytes b)] ∧
      t.att = s.att + 1 ∧ t.want = 0 ∧ t.answers = rest ∧
      (t.filled = s.latch.rxTarget.toNat → t.seq = .complete) ∧
      (t.filled < s.latch.rxTarget.toNat → s.att + 1 < s.latch.rxPollLimit.toNat → t.seq = .receiving) ∧
      (t.filled < s.latch.rxTarget.toNat → s.latch.rxPollLimit.toNat ≤ s.att + 1 → t.seq = .idle ∧ t.res.result = 2) ∧
      (∀ j, j < b.length → bufGet .dbuf t.dbuf (s.filled + j) = b[j]?) ∧
      (∀ i, i < s.filled ∨ s.filled + b.length ≤ i → bufGet .dbuf t.dbuf i = bufGet .dbuf s.dbuf i)

/-- Every command that is launched as R275 asks (the premise's exact form: log 10) ends, whatever the Transport answers, after
at most the Transport calls that R290 allows it. -/
def Obligations.EveryCommandEndsWithinItsCallBound : Prop :=
  ∀ (s : State) (i : Instr), i ∈ commandList → s.busy = false → s.inputs = [] → s.inv = true → launchable s i →
    s.params.pgreadProbeReadsStatus = false → s.params.cleanupAfterCmdFailure = false →
    ∃ (t u : State) (n : Nat) (events : List Event), exec i s = .next t ∧ runFor n t = .next u ∧ u.status = 0x02 ∧
      u.seq = .idle ∧ u.hist = s.hist ++ events ∧ callCount events ≤ callBound s.regs i

/-! What host reads return. -/

/-- A host read of a register returns its contents, and one of a written buffer element returns the element; nothing else
changes (R21, R22, R26, R30, R32, R33). An access outside a buffer is a fault (the model's reading, log 16). -/
def Obligations.HostReadsReturnTheContents : Prop :=
  ∀ (s : State) (rest : List Input), s.busy = false →
    (∀ nv ∈ registerContents s, s.inputs = .hostRead nv.1 :: rest →
      step s = .next { s with inputs := rest, reads := s.reads ++ [nv.2] }) ∧
    (∀ i v, i < 256 → bufGet .dbuf s.dbuf i = some v → s.inputs = .bufRead .dbuf i :: rest →
      step s = .next { s with inputs := rest, reads := s.reads ++ [v.setWidth 32] }) ∧
    (∀ i v, i < 128 → bufGet .unitstat s.unitstat i = some v → s.inputs = .bufRead .unitstat i :: rest →
      step s = .next { s with inputs := rest, reads := s.reads ++ [v.setWidth 32] }) ∧
    (∀ i v, i < 256 → bufGet .xlut s.xlut i = some v → s.inputs = .bufRead .xlut i :: rest →
      step s = .next { s with inputs := rest, reads := s.reads ++ [v.setWidth 32] }) ∧
    (∀ sp i v, (if sp = .unitstat then 128 else 256) ≤ i →
      s.inputs = .bufRead sp i :: rest ∨ s.inputs = .bufWrite sp i v :: rest → step s = .fault .noSuchElement)
end

