-- ==== Sys2Proof/Laws/Memory.lean ====
section
/-!
SUPPORT. The laws of the buffers: what a read gives after a write, that every operation keeps the canonical form, and what
the byte-sequence primitives MemRead and MemWrite (spec/00_scope.md R13) and the transform (spec/43_slave_frame.md R218)
do to each element.
-/

namespace Sys2Proof.Machine

open Sys2Proof

/-! Single entries. -/

theorem memLookup_memPut (m : Memory) (i j : Nat) (v : Byte) :
    memLookup (memPut m i v) j = if j = i then some v else memLookup m j := by
  induction m with
  | nil =>
    by_cases h : j = i
    · subst h; simp [memPut, memLookup]
    · have : ¬ i = j := fun e => h e.symm
      simp [memPut, memLookup, h, this]
  | cons c m ih =>
    obtain ⟨a, w⟩ := c
    by_cases hji : j = i
    · subst hji
      unfold memPut
      by_cases h1 : j < a
      · simp [h1, memLookup]
      · by_cases h2 : j = a
        · simp [h2, memLookup]
        · have h3 : ¬ a = j := fun e => h2 e.symm
          simp [h1, h2, h3, memLookup, ih]
    · have hij : ¬ i = j := fun e => hji e.symm
      unfold memPut
      by_cases h1 : i < a
      · simp [h1, memLookup, hji, hij]
      · by_cases h2 : i = a
        · subst h2; simp [memLookup, hji, hij]
        · simp [h1, h2, memLookup, hji, ih]

theorem memLookup_eq_none (m : Memory) (i : Nat) (h : ∀ c ∈ m, c.1 ≠ i) : memLookup m i = none := by
  induction m with
  | nil => rfl
  | cons c m ih =>
    obtain ⟨a, w⟩ := c
    have ha : a ≠ i := h (a, w) (by simp)
    simp [memLookup, ha, ih (fun c hc => h c (by simp [hc]))]

theorem memLookup_memErase (m : Memory) (i j : Nat) (h : m.Pairwise fun x y => x.1 < y.1) :
    memLookup (memErase m i) j = if j = i then none else memLookup m j := by
  induction m with
  | nil => simp [memErase, memLookup]
  | cons c m ih =>
    obtain ⟨a, w⟩ := c
    rw [List.pairwise_cons] at h
    unfold memErase
    split_ifs with h1 h2 h2
    · subst h1; subst h2
      exact memLookup_eq_none m j (fun c hc => by have := h.1 c hc; simp only at this; omega)
    · simp [memLookup]
      intro e; omega
    · subst h2
      simp [memLookup, h1, ih h.2]
    · simp [memLookup, ih h.2, h2]

/-! Which entries an operation leaves. -/

theorem mem_memPut {m : Memory} {i : Nat} {v : Byte} {c : Host.Cell} (h : c ∈ memPut m i v) : c = (i, v) ∨ c ∈ m := by
  induction m with
  | nil => simpa [memPut] using h
  | cons d m ih =>
    obtain ⟨a, w⟩ := d
    unfold memPut at h
    split_ifs at h <;> simp only [List.mem_cons] at h ⊢ <;> tauto

theorem mem_memErase {m : Memory} {i : Nat} {c : Host.Cell} (h : c ∈ memErase m i) : c ∈ m := by
  induction m with
  | nil => simp [memErase] at h
  | cons d m ih =>
    obtain ⟨a, w⟩ := d
    unfold memErase at h
    split_ifs at h <;> simp only [List.mem_cons] at h ⊢ <;> tauto

theorem sorted_memPut (m : Memory) (i : Nat) (v : Byte) (h : m.Pairwise fun x y => x.1 < y.1) :
    (memPut m i v).Pairwise fun x y => x.1 < y.1 := by
  induction m with
  | nil => simp [memPut]
  | cons c m ih =>
    obtain ⟨a, w⟩ := c
    rw [List.pairwise_cons] at h
    unfold memPut
    split_ifs with h1 h2
    · refine List.pairwise_cons.2 ⟨fun c hc => ?_, List.pairwise_cons.2 h⟩
      rcases List.mem_cons.1 hc with rfl | hc
      · exact h1
      · have := h.1 c hc; simp only at this ⊢; omega
    · subst h2
      exact List.pairwise_cons.2 h
    · refine List.pairwise_cons.2 ⟨fun c hc => ?_, ih h.2⟩
      rcases mem_memPut hc with rfl | hc
      · simp only; omega
      · exact h.1 c hc

theorem sorted_memErase (m : Memory) (i : Nat) (h : m.Pairwise fun x y => x.1 < y.1) :
    (memErase m i).Pairwise fun x y => x.1 < y.1 := by
  induction m with
  | nil => simp [memErase]
  | cons c m ih =>
    obtain ⟨a, w⟩ := c
    rw [List.pairwise_cons] at h
    unfold memErase
    split_ifs
    · exact h.2
    · exact List.pairwise_cons.2 ⟨fun c hc => h.1 c (mem_memErase hc), ih h.2⟩

/-! The canonical form. -/

theorem wf_iff (sp : BufSpace) (m : Memory) :
    Memory.wf sp m = true ↔
      (m.Pairwise fun x y => x.1 < y.1) ∧ ∀ c ∈ m, c.1 < sp.size ∧ sp.fresh c.1 ≠ some c.2 := by
  simp [Memory.wf]

theorem wf_nil (sp : BufSpace) : Memory.wf sp [] = true := by simp [Memory.wf]

/-- The buffers of the reset state are canonical (R38). -/
theorem wf_reset :
    Memory.wf .dbuf State.reset.dbuf = true ∧ Memory.wf .unitstat State.reset.unitstat = true ∧
      Memory.wf .xlut State.reset.xlut = true := ⟨wf_nil _, wf_nil _, wf_nil _⟩

/-- Writing an element of the buffer keeps the canonical form. -/
theorem wf_bufPut (sp : BufSpace) (m : Memory) (i : Nat) (v : Byte) (h : Memory.wf sp m = true) (hi : i < sp.size) :
    Memory.wf sp (bufPut sp m i v) = true := by
  rw [wf_iff] at h ⊢
  unfold bufPut
  split_ifs with hf
  · exact ⟨sorted_memErase m i h.1, fun c hc => h.2 c (mem_memErase hc)⟩
  · refine ⟨sorted_memPut m i v h.1, fun c hc => ?_⟩
    rcases mem_memPut hc with rfl | hc
    · exact ⟨hi, hf⟩
    · exact h.2 c hc

/-- Read after write: the written element reads as the byte written, every other one as before. -/
theorem bufGet_bufPut (sp : BufSpace) (m : Memory) (i j : Nat) (v : Byte) (h : Memory.wf sp m = true) :
    bufGet sp (bufPut sp m i v) j = if j = i then some v else bufGet sp m j := by
  rw [wf_iff] at h
  unfold bufPut bufGet
  by_cases hf : sp.fresh i = some v
  · rw [if_pos hf, memLookup_memErase m i j h.1]
    by_cases hj : j = i
    · subst hj; simp [hf]
    · simp [hj]
  · rw [if_neg hf, memLookup_memPut]
    by_cases hj : j = i
    · subst hj; simp
    · simp [hj]

/-! DBUF, whose unlisted bytes have no value: no canonical form is needed to read after a write. -/

@[simp] theorem bufGet_dbuf (m : Memory) (i : Nat) : bufGet .dbuf m i = memLookup m i := by
  unfold bufGet; cases memLookup m i <;> rfl

theorem bufPut_dbuf (m : Memory) (i : Nat) (v : Byte) : bufPut .dbuf m i v = memPut m i v := by
  simp [bufPut, BufSpace.fresh]

@[simp] theorem memLookup_bufPut_dbuf (m : Memory) (i j : Nat) (v : Byte) :
    memLookup (bufPut .dbuf m i v) j = if j = i then some v else memLookup m j := by
  rw [bufPut_dbuf, memLookup_memPut]

/-- MemWrite: the bytes stand where they were written, every other byte is as before. -/
theorem memLookup_dbufWrite (bs : List Byte) (m : Memory) (i j : Nat) :
    memLookup (dbufWrite m i bs) j = if i ≤ j ∧ j < i + bs.length then bs[j - i]? else memLookup m j := by
  induction bs generalizing m i with
  | nil =>
    have : ¬ (i ≤ j ∧ j < i) := by omega
    simp [dbufWrite, this]
  | cons b bs ih =>
    rw [dbufWrite, ih, memLookup_bufPut_dbuf]
    by_cases h : j = i
    · subst h; simp
    · by_cases h1 : i + 1 ≤ j ∧ j < i + 1 + bs.length
      · have h2 : i ≤ j ∧ j < i + (b :: bs).length := by simp only [List.length_cons]; omega
        rw [if_pos h1, if_pos h2]
        have : j - i = (j - (i + 1)) + 1 := by omega
        rw [this, List.getElem?_cons_succ]
      · have h2 : ¬ (i ≤ j ∧ j < i + (b :: bs).length) := by simp only [List.length_cons]; omega
        rw [if_neg h1, if_neg h2, if_neg h]

theorem wf_dbufWrite (bs : List Byte) (m : Memory) (i : Nat) (h : Memory.wf .dbuf m = true)
    (hi : i + bs.length ≤ Config.dbufSize) : Memory.wf .dbuf (dbufWrite m i bs) = true := by
  induction bs generalizing m i with
  | nil => simpa [dbufWrite] using h
  | cons b bs ih =>
    simp only [List.length_cons] at hi
    exact ih _ _ (wf_bufPut _ _ _ _ h (by simp only [BufSpace.size]; omega)) (by omega)

/-- MemRead gives bytes exactly when each of them has a value, and then each in its place. -/
theorem dbufRead_eq_some_iff (n : Nat) (m : Memory) (i : Nat) (bs : List Byte) :
    dbufRead m i n = some bs ↔ bs.length = n ∧ ∀ k, k < n → memLookup m (i + k) = bs[k]? := by
  induction n generalizing i bs with
  | zero =>
    constructor
    · intro h; simp only [dbufRead, Option.some.injEq] at h; subst h; simp
    · rintro ⟨h, -⟩; simp [dbufRead, List.length_eq_zero_iff.1 h]
  | succ n ih =>
    rw [dbufRead, bufGet_dbuf]
    constructor
    · intro h
      split at h
      · next b bs' hb hbs =>
        simp only [Option.some.injEq] at h; subst h
        obtain ⟨hl, hk⟩ := (ih _ _).1 hbs
        refine ⟨by simp [hl], fun k hk' => ?_⟩
        cases k with
        | zero => simpa using hb
        | succ k =>
          have := hk k (by omega)
          rw [List.getElem?_cons_succ, ← this]; congr 1; omega
      · cases h
    · rintro ⟨hl, hk⟩
      cases bs with
      | nil => simp at hl
      | cons b bs =>
        have h0 := hk 0 (by omega)
        simp only [Nat.add_zero, List.getElem?_cons_zero] at h0
        have hr : dbufRead m (i + 1) n = some bs :=
          (ih _ _).2 ⟨by simpa using hl, fun k hk' => by
            have := hk (k + 1) (by omega)
            rw [List.getElem?_cons_succ] at this; rw [← this]; congr 1; omega⟩
        simp [h0, hr]

theorem dbufRead_isSome_iff (n : Nat) (m : Memory) (i : Nat) :
    (dbufRead m i n).isSome = true ↔ ∀ k, k < n → (memLookup m (i + k)).isSome = true := by
  induction n generalizing i with
  | zero => simp [dbufRead]
  | succ n ih =>
    have hs := ih (i + 1)
    rw [dbufRead, bufGet_dbuf]
    constructor
    · intro h k hk
      split at h
      · next b bs hb hbs =>
        cases k with
        | zero => simp [hb]
        | succ k =>
          have := hs.1 (by simp [hbs]) k (by omega)
          rwa [show i + 1 + k = i + (k + 1) by omega] at this
      · cases h
    · intro h
      obtain ⟨b, hb⟩ := Option.isSome_iff_exists.1 (h 0 (by omega))
      obtain ⟨bs, hbs⟩ := Option.isSome_iff_exists.1 (hs.2 fun k hk => by
        have := h (k + 1) (by omega)
        rwa [show i + (k + 1) = i + 1 + k by omega] at this)
      simp only [Nat.add_zero] at hb
      simp [hb, hbs]

/-! The transform. -/

theorem memLookup_transformFrame (xlut m : Memory) (n j : Nat) :
    memLookup (transformFrame xlut m n) j =
      if j < n then (memLookup m j).map (xlutAt xlut) else memLookup m j := by
  induction m with
  | nil => simp [transformFrame, memLookup]
  | cons c m ih =>
    obtain ⟨a, w⟩ := c
    simp only [transformFrame, List.map_cons] at ih ⊢
    by_cases ha : a < n
    · simp only [ha, if_true, memLookup]
      by_cases hj : a = j
      · subst hj; simp [ha]
      · simp [hj, ih]
    · simp only [ha, if_false, memLookup]
      by_cases hj : a = j
      · subst hj; simp [ha]
      · simp [hj, ih]

theorem transformFrame_indices (xlut m : Memory) (n : Nat) :
    (transformFrame xlut m n).map Prod.fst = m.map Prod.fst := by
  simp only [transformFrame, List.map_map]
  congr 1; funext c; simp only [Function.comp]; split_ifs <;> rfl

theorem wf_transformFrame (xlut m : Memory) (n : Nat) (h : Memory.wf .dbuf m = true) :
    Memory.wf .dbuf (transformFrame xlut m n) = true := by
  have hkeys := transformFrame_indices xlut m n
  rw [wf_iff] at h ⊢
  refine ⟨?_, fun c hc => ?_⟩
  · have h1 := List.pairwise_map.2 h.1
    rw [← hkeys] at h1
    exact List.pairwise_map.1 h1
  · refine ⟨?_, by simp [BufSpace.fresh]⟩
    have : c.1 ∈ m.map Prod.fst := hkeys ▸ List.mem_map_of_mem hc
    obtain ⟨d, hd, he⟩ := List.mem_map.1 this
    exact he ▸ (h.2 d hd).1

end Sys2Proof.Machine
end

