-- ==== Sys2Proof/Laws/Operands.lean ====
section
/-!
SUPPORT. The preconditions as propositions over numbers (spec/60_exceptions.md R233), and which command runs, as an
equation on CMD.
-/

namespace Sys2Proof.Machine

open Sys2Proof

theorem pgwriteLegal_iff (r : ParamRegs) :
    r.pgwriteLegal = true ↔ 1 ≤ r.pageSize.toNat ∧ r.len.toNat % r.pageSize.toNat = 0 ∧ r.len.toNat ≤ 256 := by
  simp only [ParamRegs.pgwriteLegal, Bool.and_eq_true, decide_eq_true_eq]
  simp only [Config.pageReach, Config.dbufSize]
  tauto

theorem pgreadLegal_iff (r : ParamRegs) : r.pgreadLegal = true ↔ 1 ≤ r.len.toNat ∧ r.len.toNat ≤ 256 := by
  simp only [ParamRegs.pgreadLegal, Bool.and_eq_true, decide_eq_true_eq]
  exact Iff.rfl

theorem saddrLegal_iff (r : ParamRegs) : r.saddrLegal = true ↔ r.saddr.toNat < 128 := by
  simp only [ParamRegs.saddrLegal, decide_eq_true_eq]
  exact Iff.rfl

theorem devSizeLegal_iff (r : ParamRegs) : r.devSizeLegal = true ↔ 1 ≤ r.devSize.toNat ∧ r.devSize.toNat ≤ 128 := by
  simp only [ParamRegs.devSizeLegal, Bool.and_eq_true, decide_eq_true_eq]
  exact Iff.rfl

theorem rxTargetLegal_iff (r : ParamRegs) : r.rxTargetLegal = true ↔ 1 ≤ r.rxTarget.toNat ∧ r.rxTarget.toNat ≤ 256 := by
  simp only [ParamRegs.rxTargetLegal, Bool.and_eq_true, decide_eq_true_eq]
  exact Iff.rfl

/-- A legal PGWRITE's pages are exactly its bytes. -/
theorem pageCount_mul (r : ParamRegs) (h : r.pgwriteLegal = true) : r.pageCount * r.pageSize.toNat = r.len.toNat :=
  Nat.div_mul_cancel (Nat.dvd_of_mod_eq_zero ((pgwriteLegal_iff r).1 h).2.1)

theorem inPgwrite_iff (s : State) : s.inPgwrite = true ↔ s.cmd = 0x02#8 := by
  simp only [State.inPgwrite, decide_eq_true_eq]; exact Iff.rfl
theorem inPgread_iff (s : State) : s.inPgread = true ↔ s.cmd = 0x03#8 := by
  simp only [State.inPgread, decide_eq_true_eq]; exact Iff.rfl
theorem inSweepWrite_iff (s : State) : s.inSweepWrite = true ↔ s.cmd = 0x13#8 := by
  simp only [State.inSweepWrite, decide_eq_true_eq]; exact Iff.rfl
theorem inSweepRead_iff (s : State) : s.inSweepRead = true ↔ s.cmd = 0x14#8 := by
  simp only [State.inSweepRead, decide_eq_true_eq]; exact Iff.rfl

/-- The address of a read or write frame outside a sweep (R174, R181). -/
theorem unitAddr_of_saddr (s : State) (h : s.cmd ≠ 0x13#8) (g : s.cmd ≠ 0x14#8) :
    s.unitAddr = s.latch.saddr.setWidth 7 := by
  simp [State.unitAddr, State.inSweepWrite, State.inSweepRead, Instr.code, h, g]

/-- The address of a read or write frame in a sweep (R187, R188). -/
theorem unitAddr_of_sweep (s : State) (h : s.cmd = 0x13#8 ∨ s.cmd = 0x14#8) : s.unitAddr = BitVec.ofNat 7 s.idx := by
  rcases h with h | h <;> simp [State.unitAddr, State.inSweepWrite, State.inSweepRead, Instr.code, h]

end Sys2Proof.Machine
end

