-- ==== Sys2Proof/Laws/State.lean ====
section
/-!
SUPPORT. What each named update of the state leaves in each field: one lemma per field per update, true by unfolding, so
that no proof unfolds a record update.
-/

namespace Sys2Proof.Machine

open Sys2Proof

variable (s : State)

/-! `State.start`. -/

@[simp] theorem start_cmd (code : Byte) : (s.start code).cmd = code := rfl
@[simp] theorem start_status (code : Byte) : (s.start code).status = statusBusy := rfl
@[simp] theorem start_regs (code : Byte) : (s.start code).regs = s.regs := rfl
@[simp] theorem start_res (code : Byte) : (s.start code).res = s.res.cleared := rfl
@[simp] theorem start_dbuf (code : Byte) : (s.start code).dbuf = s.dbuf := rfl
@[simp] theorem start_unitstat (code : Byte) : (s.start code).unitstat = s.unitstat := rfl
@[simp] theorem start_xlut (code : Byte) : (s.start code).xlut = s.xlut := rfl
@[simp] theorem start_seq (code : Byte) : (s.start code).seq = s.seq := rfl
@[simp] theorem start_att (code : Byte) : (s.start code).att = 0 := rfl
@[simp] theorem start_idx (code : Byte) : (s.start code).idx = 0 := rfl
@[simp] theorem start_filled (code : Byte) : (s.start code).filled = 0 := rfl
@[simp] theorem start_latch (code : Byte) : (s.start code).latch = s.regs := rfl
@[simp] theorem start_sel (code : Byte) : (s.start code).sel = s.sel := rfl
@[simp] theorem start_ackStatus (code : Byte) : (s.start code).ackStatus = 0 := rfl
@[simp] theorem start_ackValid (code : Byte) : (s.start code).ackValid = false := rfl
@[simp] theorem start_outcome (code : Byte) : (s.start code).outcome = .success := rfl
@[simp] theorem start_fails (code : Byte) : (s.start code).fails = 0 := rfl
@[simp] theorem start_first (code : Byte) : (s.start code).first = none := rfl
@[simp] theorem start_want (code : Byte) : (s.start code).want = 0 := rfl
@[simp] theorem start_phase (code : Byte) : (s.start code).phase = .preDelay := rfl
@[simp] theorem start_peerWritten (code : Byte) : (s.start code).peerWritten = s.peerWritten := rfl
@[simp] theorem start_lastStatusWritten (code : Byte) : (s.start code).lastStatusWritten = s.lastStatusWritten := rfl
@[simp] theorem start_hist (code : Byte) : (s.start code).hist = s.hist := rfl
@[simp] theorem start_answers (code : Byte) : (s.start code).answers = s.answers := rfl
@[simp] theorem start_draws (code : Byte) : (s.start code).draws = s.draws := rfl
@[simp] theorem start_inputs (code : Byte) : (s.start code).inputs = s.inputs := rfl
@[simp] theorem start_reads (code : Byte) : (s.start code).reads = s.reads := rfl
@[simp] theorem start_params (code : Byte) : (s.start code).params = s.params := rfl

/-! `State.finish`. -/

@[simp] theorem finish_cmd (k : Kind) : (s.finish k).cmd = s.cmd := rfl
@[simp] theorem finish_status (k : Kind) : (s.finish k).status = statusDone := rfl
@[simp] theorem finish_regs (k : Kind) : (s.finish k).regs = s.regs := rfl
@[simp] theorem finish_res (k : Kind) :
    (s.finish k).res = { s.res with result := k.code, flags := flagsAtEnd s.res.flags k } := rfl
@[simp] theorem finish_dbuf (k : Kind) : (s.finish k).dbuf = s.dbuf := rfl
@[simp] theorem finish_unitstat (k : Kind) : (s.finish k).unitstat = s.unitstat := rfl
@[simp] theorem finish_xlut (k : Kind) : (s.finish k).xlut = s.xlut := rfl
@[simp] theorem finish_seq (k : Kind) : (s.finish k).seq = .idle := rfl
@[simp] theorem finish_att (k : Kind) : (s.finish k).att = s.att := rfl
@[simp] theorem finish_idx (k : Kind) : (s.finish k).idx = s.idx := rfl
@[simp] theorem finish_filled (k : Kind) : (s.finish k).filled = s.filled := rfl
@[simp] theorem finish_latch (k : Kind) : (s.finish k).latch = s.latch := rfl
@[simp] theorem finish_sel (k : Kind) : (s.finish k).sel = s.sel := rfl
@[simp] theorem finish_ackStatus (k : Kind) : (s.finish k).ackStatus = s.ackStatus := rfl
@[simp] theorem finish_ackValid (k : Kind) : (s.finish k).ackValid = s.ackValid := rfl
@[simp] theorem finish_outcome (k : Kind) : (s.finish k).outcome = s.outcome := rfl
@[simp] theorem finish_fails (k : Kind) : (s.finish k).fails = s.fails := rfl
@[simp] theorem finish_first (k : Kind) : (s.finish k).first = s.first := rfl
@[simp] theorem finish_want (k : Kind) : (s.finish k).want = s.want := rfl
@[simp] theorem finish_phase (k : Kind) : (s.finish k).phase = s.phase := rfl
@[simp] theorem finish_peerWritten (k : Kind) : (s.finish k).peerWritten = s.peerWritten := rfl
@[simp] theorem finish_lastStatusWritten (k : Kind) : (s.finish k).lastStatusWritten = s.lastStatusWritten := rfl
@[simp] theorem finish_hist (k : Kind) : (s.finish k).hist = s.hist := rfl
@[simp] theorem finish_answers (k : Kind) : (s.finish k).answers = s.answers := rfl
@[simp] theorem finish_draws (k : Kind) : (s.finish k).draws = s.draws := rfl
@[simp] theorem finish_inputs (k : Kind) : (s.finish k).inputs = s.inputs := rfl
@[simp] theorem finish_reads (k : Kind) : (s.finish k).reads = s.reads := rfl
@[simp] theorem finish_params (k : Kind) : (s.finish k).params = s.params := rfl

/-! `State.finishPartial`. -/

@[simp] theorem finishPartial_cmd (k : Kind) (u : Nat) : (s.finishPartial k u).cmd = s.cmd := rfl
@[simp] theorem finishPartial_status (k : Kind) (u : Nat) : (s.finishPartial k u).status = statusDone := rfl
@[simp] theorem finishPartial_regs (k : Kind) (u : Nat) : (s.finishPartial k u).regs = s.regs := rfl
@[simp] theorem finishPartial_res (k : Kind) (u : Nat) :
    (s.finishPartial k u).res = { s.res with
      result := Kind.partialFailure.code, flags := flagsAtEnd s.res.flags .partialFailure
      cause := k.code, unit := BitVec.ofNat 16 u } := rfl
@[simp] theorem finishPartial_dbuf (k : Kind) (u : Nat) : (s.finishPartial k u).dbuf = s.dbuf := rfl
@[simp] theorem finishPartial_unitstat (k : Kind) (u : Nat) : (s.finishPartial k u).unitstat = s.unitstat := rfl
@[simp] theorem finishPartial_xlut (k : Kind) (u : Nat) : (s.finishPartial k u).xlut = s.xlut := rfl
@[simp] theorem finishPartial_seq (k : Kind) (u : Nat) : (s.finishPartial k u).seq = .idle := rfl
@[simp] theorem finishPartial_att (k : Kind) (u : Nat) : (s.finishPartial k u).att = s.att := rfl
@[simp] theorem finishPartial_idx (k : Kind) (u : Nat) : (s.finishPartial k u).idx = s.idx := rfl
@[simp] theorem finishPartial_filled (k : Kind) (u : Nat) : (s.finishPartial k u).filled = s.filled := rfl
@[simp] theorem finishPartial_latch (k : Kind) (u : Nat) : (s.finishPartial k u).latch = s.latch := rfl
@[simp] theorem finishPartial_sel (k : Kind) (u : Nat) : (s.finishPartial k u).sel = s.sel := rfl
@[simp] theorem finishPartial_ackStatus (k : Kind) (u : Nat) : (s.finishPartial k u).ackStatus = s.ackStatus := rfl
@[simp] theorem finishPartial_ackValid (k : Kind) (u : Nat) : (s.finishPartial k u).ackValid = s.ackValid := rfl
@[simp] theorem finishPartial_outcome (k : Kind) (u : Nat) : (s.finishPartial k u).outcome = s.outcome := rfl
@[simp] theorem finishPartial_fails (k : Kind) (u : Nat) : (s.finishPartial k u).fails = s.fails := rfl
@[simp] theorem finishPartial_first (k : Kind) (u : Nat) : (s.finishPartial k u).first = s.first := rfl
@[simp] theorem finishPartial_want (k : Kind) (u : Nat) : (s.finishPartial k u).want = s.want := rfl
@[simp] theorem finishPartial_phase (k : Kind) (u : Nat) : (s.finishPartial k u).phase = s.phase := rfl
@[simp] theorem finishPartial_peerWritten (k : Kind) (u : Nat) :
    (s.finishPartial k u).peerWritten = s.peerWritten := rfl
@[simp] theorem finishPartial_lastStatusWritten (k : Kind) (u : Nat) :
    (s.finishPartial k u).lastStatusWritten = s.lastStatusWritten := rfl
@[simp] theorem finishPartial_hist (k : Kind) (u : Nat) : (s.finishPartial k u).hist = s.hist := rfl
@[simp] theorem finishPartial_answers (k : Kind) (u : Nat) : (s.finishPartial k u).answers = s.answers := rfl
@[simp] theorem finishPartial_draws (k : Kind) (u : Nat) : (s.finishPartial k u).draws = s.draws := rfl
@[simp] theorem finishPartial_inputs (k : Kind) (u : Nat) : (s.finishPartial k u).inputs = s.inputs := rfl
@[simp] theorem finishPartial_reads (k : Kind) (u : Nat) : (s.finishPartial k u).reads = s.reads := rfl
@[simp] theorem finishPartial_params (k : Kind) (u : Nat) : (s.finishPartial k u).params = s.params := rfl

/-! `State.afterCall`. -/

@[simp] theorem afterCall_cmd (c : Call) : (s.afterCall c).cmd = s.cmd := rfl
@[simp] theorem afterCall_status (c : Call) : (s.afterCall c).status = s.status := rfl
@[simp] theorem afterCall_regs (c : Call) : (s.afterCall c).regs = s.regs := rfl
@[simp] theorem afterCall_res (c : Call) : (s.afterCall c).res = s.res := rfl
@[simp] theorem afterCall_dbuf (c : Call) : (s.afterCall c).dbuf = s.dbuf := rfl
@[simp] theorem afterCall_unitstat (c : Call) : (s.afterCall c).unitstat = s.unitstat := rfl
@[simp] theorem afterCall_xlut (c : Call) : (s.afterCall c).xlut = s.xlut := rfl
@[simp] theorem afterCall_seq (c : Call) : (s.afterCall c).seq = s.seq := rfl
@[simp] theorem afterCall_att (c : Call) : (s.afterCall c).att = s.att := rfl
@[simp] theorem afterCall_idx (c : Call) : (s.afterCall c).idx = s.idx := rfl
@[simp] theorem afterCall_filled (c : Call) : (s.afterCall c).filled = s.filled := rfl
@[simp] theorem afterCall_latch (c : Call) : (s.afterCall c).latch = s.latch := rfl
@[simp] theorem afterCall_sel (c : Call) : (s.afterCall c).sel = selAfter c (s.answer c) s.sel := rfl
@[simp] theorem afterCall_ackStatus (c : Call) : (s.afterCall c).ackStatus = s.ackStatus := rfl
@[simp] theorem afterCall_ackValid (c : Call) : (s.afterCall c).ackValid = s.ackValid := rfl
@[simp] theorem afterCall_outcome (c : Call) : (s.afterCall c).outcome = s.outcome := rfl
@[simp] theorem afterCall_fails (c : Call) : (s.afterCall c).fails = s.fails := rfl
@[simp] theorem afterCall_first (c : Call) : (s.afterCall c).first = s.first := rfl
@[simp] theorem afterCall_want (c : Call) : (s.afterCall c).want = s.want := rfl
@[simp] theorem afterCall_phase (c : Call) : (s.afterCall c).phase = s.phase := rfl
@[simp] theorem afterCall_peerWritten (c : Call) : (s.afterCall c).peerWritten = s.peerWritten := rfl
@[simp] theorem afterCall_lastStatusWritten (c : Call) :
    (s.afterCall c).lastStatusWritten = s.lastStatusWritten := rfl
@[simp] theorem afterCall_hist (c : Call) : (s.afterCall c).hist = s.hist ++ [.call c s.rawAnswer] := rfl
@[simp] theorem afterCall_answers (c : Call) : (s.afterCall c).answers = s.answers.tail := rfl
@[simp] theorem afterCall_draws (c : Call) :
    (s.afterCall c).draws = if s.answers.isEmpty then s.draws + 1 else s.draws := rfl
@[simp] theorem afterCall_inputs (c : Call) : (s.afterCall c).inputs = s.inputs := rfl
@[simp] theorem afterCall_reads (c : Call) : (s.afterCall c).reads = s.reads := rfl
@[simp] theorem afterCall_params (c : Call) : (s.afterCall c).params = s.params := rfl

/-! `State.ownPeerRead`. -/

@[simp] theorem ownPeerRead_cmd : s.ownPeerRead.cmd = s.cmd := rfl
@[simp] theorem ownPeerRead_status : s.ownPeerRead.status = s.status := rfl
@[simp] theorem ownPeerRead_regs : s.ownPeerRead.regs = s.regs := rfl
@[simp] theorem ownPeerRead_res : s.ownPeerRead.res = s.res := rfl
@[simp] theorem ownPeerRead_dbuf : s.ownPeerRead.dbuf = s.dbuf := rfl
@[simp] theorem ownPeerRead_unitstat : s.ownPeerRead.unitstat = s.unitstat := rfl
@[simp] theorem ownPeerRead_xlut : s.ownPeerRead.xlut = s.xlut := rfl
@[simp] theorem ownPeerRead_seq : s.ownPeerRead.seq = s.seq := rfl
@[simp] theorem ownPeerRead_att : s.ownPeerRead.att = s.att := rfl
@[simp] theorem ownPeerRead_idx : s.ownPeerRead.idx = s.idx := rfl
@[simp] theorem ownPeerRead_filled : s.ownPeerRead.filled = s.filled := rfl
@[simp] theorem ownPeerRead_latch : s.ownPeerRead.latch = s.latch := rfl
@[simp] theorem ownPeerRead_sel : s.ownPeerRead.sel = s.sel := rfl
@[simp] theorem ownPeerRead_ackStatus : s.ownPeerRead.ackStatus = s.ackStatus := rfl
@[simp] theorem ownPeerRead_ackValid : s.ownPeerRead.ackValid = s.ackValid := rfl
@[simp] theorem ownPeerRead_outcome : s.ownPeerRead.outcome = s.outcome := rfl
@[simp] theorem ownPeerRead_fails : s.ownPeerRead.fails = s.fails := rfl
@[simp] theorem ownPeerRead_first : s.ownPeerRead.first = s.first := rfl
@[simp] theorem ownPeerRead_want : s.ownPeerRead.want = s.want := rfl
@[simp] theorem ownPeerRead_phase : s.ownPeerRead.phase = s.phase := rfl
@[simp] theorem ownPeerRead_peerWritten : s.ownPeerRead.peerWritten = s.peerWritten := rfl
@[simp] theorem ownPeerRead_lastStatusWritten : s.ownPeerRead.lastStatusWritten = s.lastStatusWritten := rfl
@[simp] theorem ownPeerRead_hist : s.ownPeerRead.hist = s.hist := rfl
@[simp] theorem ownPeerRead_answers : s.ownPeerRead.answers = s.answers := rfl
@[simp] theorem ownPeerRead_draws : s.ownPeerRead.draws = if s.peerWritten then s.draws else s.draws + 1 := rfl
@[simp] theorem ownPeerRead_inputs : s.ownPeerRead.inputs = s.inputs := rfl
@[simp] theorem ownPeerRead_reads : s.ownPeerRead.reads = s.reads := rfl
@[simp] theorem ownPeerRead_params : s.ownPeerRead.params = s.params := rfl

/-! `State.afterDelay`. -/

@[simp] theorem afterDelay_cmd (d : Word) : (s.afterDelay d).cmd = s.cmd := rfl
@[simp] theorem afterDelay_status (d : Word) : (s.afterDelay d).status = s.status := rfl
@[simp] theorem afterDelay_regs (d : Word) : (s.afterDelay d).regs = s.regs := rfl
@[simp] theorem afterDelay_res (d : Word) : (s.afterDelay d).res = s.res := rfl
@[simp] theorem afterDelay_dbuf (d : Word) : (s.afterDelay d).dbuf = s.dbuf := rfl
@[simp] theorem afterDelay_unitstat (d : Word) : (s.afterDelay d).unitstat = s.unitstat := rfl
@[simp] theorem afterDelay_xlut (d : Word) : (s.afterDelay d).xlut = s.xlut := rfl
@[simp] theorem afterDelay_seq (d : Word) : (s.afterDelay d).seq = s.seq := rfl
@[simp] theorem afterDelay_att (d : Word) : (s.afterDelay d).att = s.att := rfl
@[simp] theorem afterDelay_idx (d : Word) : (s.afterDelay d).idx = s.idx := rfl
@[simp] theorem afterDelay_filled (d : Word) : (s.afterDelay d).filled = s.filled := rfl
@[simp] theorem afterDelay_latch (d : Word) : (s.afterDelay d).latch = s.latch := rfl
@[simp] theorem afterDelay_sel (d : Word) : (s.afterDelay d).sel = s.sel := rfl
@[simp] theorem afterDelay_ackStatus (d : Word) : (s.afterDelay d).ackStatus = s.ackStatus := rfl
@[simp] theorem afterDelay_ackValid (d : Word) : (s.afterDelay d).ackValid = s.ackValid := rfl
@[simp] theorem afterDelay_outcome (d : Word) : (s.afterDelay d).outcome = s.outcome := rfl
@[simp] theorem afterDelay_fails (d : Word) : (s.afterDelay d).fails = s.fails := rfl
@[simp] theorem afterDelay_first (d : Word) : (s.afterDelay d).first = s.first := rfl
@[simp] theorem afterDelay_want (d : Word) : (s.afterDelay d).want = s.want := rfl
@[simp] theorem afterDelay_phase (d : Word) : (s.afterDelay d).phase = s.phase := rfl
@[simp] theorem afterDelay_peerWritten (d : Word) : (s.afterDelay d).peerWritten = s.peerWritten := rfl
@[simp] theorem afterDelay_lastStatusWritten (d : Word) :
    (s.afterDelay d).lastStatusWritten = s.lastStatusWritten := rfl
@[simp] theorem afterDelay_hist (d : Word) : (s.afterDelay d).hist = s.hist ++ [.delay d] := rfl
@[simp] theorem afterDelay_answers (d : Word) : (s.afterDelay d).answers = s.answers := rfl
@[simp] theorem afterDelay_draws (d : Word) : (s.afterDelay d).draws = s.draws := rfl
@[simp] theorem afterDelay_inputs (d : Word) : (s.afterDelay d).inputs = s.inputs := rfl
@[simp] theorem afterDelay_reads (d : Word) : (s.afterDelay d).reads = s.reads := rfl
@[simp] theorem afterDelay_params (d : Word) : (s.afterDelay d).params = s.params := rfl

/-! `State.ackResults`. -/

@[simp] theorem ackResults_cmd : s.ackResults.cmd = s.cmd := rfl
@[simp] theorem ackResults_status : s.ackResults.status = s.status := rfl
@[simp] theorem ackResults_regs : s.ackResults.regs = s.regs := rfl
@[simp] theorem ackResults_res :
    s.ackResults.res = { s.res with
      attempts := BitVec.ofNat 32 s.att
      lastStatus := if s.ackValid then s.ackStatus else s.res.lastStatus
      flags := flagsWithValid s.res.flags s.ackValid } := rfl
@[simp] theorem ackResults_dbuf : s.ackResults.dbuf = s.dbuf := rfl
@[simp] theorem ackResults_unitstat : s.ackResults.unitstat = s.unitstat := rfl
@[simp] theorem ackResults_xlut : s.ackResults.xlut = s.xlut := rfl
@[simp] theorem ackResults_seq : s.ackResults.seq = s.seq := rfl
@[simp] theorem ackResults_att : s.ackResults.att = s.att := rfl
@[simp] theorem ackResults_idx : s.ackResults.idx = s.idx := rfl
@[simp] theorem ackResults_filled : s.ackResults.filled = s.filled := rfl
@[simp] theorem ackResults_latch : s.ackResults.latch = s.latch := rfl
@[simp] theorem ackResults_sel : s.ackResults.sel = s.sel := rfl
@[simp] theorem ackResults_ackStatus : s.ackResults.ackStatus = s.ackStatus := rfl
@[simp] theorem ackResults_ackValid : s.ackResults.ackValid = s.ackValid := rfl
@[simp] theorem ackResults_outcome : s.ackResults.outcome = s.outcome := rfl
@[simp] theorem ackResults_fails : s.ackResults.fails = s.fails := rfl
@[simp] theorem ackResults_first : s.ackResults.first = s.first := rfl
@[simp] theorem ackResults_want : s.ackResults.want = s.want := rfl
@[simp] theorem ackResults_phase : s.ackResults.phase = s.phase := rfl
@[simp] theorem ackResults_peerWritten : s.ackResults.peerWritten = s.peerWritten := rfl
@[simp] theorem ackResults_lastStatusWritten :
    s.ackResults.lastStatusWritten = (s.lastStatusWritten || s.ackValid) := rfl
@[simp] theorem ackResults_hist : s.ackResults.hist = s.hist := rfl
@[simp] theorem ackResults_answers : s.ackResults.answers = s.answers := rfl
@[simp] theorem ackResults_draws : s.ackResults.draws = s.draws := rfl
@[simp] theorem ackResults_inputs : s.ackResults.inputs = s.inputs := rfl
@[simp] theorem ackResults_reads : s.ackResults.reads = s.reads := rfl
@[simp] theorem ackResults_params : s.ackResults.params = s.params := rfl

/-! `State.unitLogged`. -/

@[simp] theorem unitLogged_cmd (k : Kind) : (s.unitLogged k).cmd = s.cmd := rfl
@[simp] theorem unitLogged_status (k : Kind) : (s.unitLogged k).status = s.status := rfl
@[simp] theorem unitLogged_regs (k : Kind) : (s.unitLogged k).regs = s.regs := rfl
@[simp] theorem unitLogged_res (k : Kind) :
    (s.unitLogged k).res = { s.res with xfer := BitVec.ofNat 16 (s.idx + 1) } := rfl
@[simp] theorem unitLogged_dbuf (k : Kind) : (s.unitLogged k).dbuf = s.dbuf := rfl
@[simp] theorem unitLogged_unitstat (k : Kind) :
    (s.unitLogged k).unitstat = bufPut .unitstat s.unitstat s.idx k.code := rfl
@[simp] theorem unitLogged_xlut (k : Kind) : (s.unitLogged k).xlut = s.xlut := rfl
@[simp] theorem unitLogged_seq (k : Kind) : (s.unitLogged k).seq = s.seq := rfl
@[simp] theorem unitLogged_att (k : Kind) : (s.unitLogged k).att = s.att := rfl
@[simp] theorem unitLogged_idx (k : Kind) : (s.unitLogged k).idx = s.idx := rfl
@[simp] theorem unitLogged_filled (k : Kind) : (s.unitLogged k).filled = s.filled := rfl
@[simp] theorem unitLogged_latch (k : Kind) : (s.unitLogged k).latch = s.latch := rfl
@[simp] theorem unitLogged_sel (k : Kind) : (s.unitLogged k).sel = s.sel := rfl
@[simp] theorem unitLogged_ackStatus (k : Kind) : (s.unitLogged k).ackStatus = s.ackStatus := rfl
@[simp] theorem unitLogged_ackValid (k : Kind) : (s.unitLogged k).ackValid = s.ackValid := rfl
@[simp] theorem unitLogged_outcome (k : Kind) : (s.unitLogged k).outcome = s.outcome := rfl
@[simp] theorem unitLogged_fails (k : Kind) :
    (s.unitLogged k).fails = if k = .success then s.fails else s.fails + 1 := rfl
@[simp] theorem unitLogged_first (k : Kind) :
    (s.unitLogged k).first = if k ≠ .success ∧ s.first = none then some (s.idx, k) else s.first := rfl
@[simp] theorem unitLogged_want (k : Kind) : (s.unitLogged k).want = s.want := rfl
@[simp] theorem unitLogged_phase (k : Kind) : (s.unitLogged k).phase = s.phase := rfl
@[simp] theorem unitLogged_peerWritten (k : Kind) : (s.unitLogged k).peerWritten = s.peerWritten := rfl
@[simp] theorem unitLogged_lastStatusWritten (k : Kind) :
    (s.unitLogged k).lastStatusWritten = s.lastStatusWritten := rfl
@[simp] theorem unitLogged_hist (k : Kind) : (s.unitLogged k).hist = s.hist := rfl
@[simp] theorem unitLogged_answers (k : Kind) : (s.unitLogged k).answers = s.answers := rfl
@[simp] theorem unitLogged_draws (k : Kind) : (s.unitLogged k).draws = s.draws := rfl
@[simp] theorem unitLogged_inputs (k : Kind) : (s.unitLogged k).inputs = s.inputs := rfl
@[simp] theorem unitLogged_reads (k : Kind) : (s.unitLogged k).reads = s.reads := rfl
@[simp] theorem unitLogged_params (k : Kind) : (s.unitLogged k).params = s.params := rfl

/-! `State.rxResults`. -/

@[simp] theorem rxResults_cmd : s.rxResults.cmd = s.cmd := rfl
@[simp] theorem rxResults_status : s.rxResults.status = s.status := rfl
@[simp] theorem rxResults_regs : s.rxResults.regs = s.regs := rfl
@[simp] theorem rxResults_res :
    s.rxResults.res = { s.res with attempts := BitVec.ofNat 32 s.att, xfer := BitVec.ofNat 16 s.filled } := rfl
@[simp] theorem rxResults_dbuf : s.rxResults.dbuf = s.dbuf := rfl
@[simp] theorem rxResults_unitstat : s.rxResults.unitstat = s.unitstat := rfl
@[simp] theorem rxResults_xlut : s.rxResults.xlut = s.xlut := rfl
@[simp] theorem rxResults_seq : s.rxResults.seq = s.seq := rfl
@[simp] theorem rxResults_att : s.rxResults.att = s.att := rfl
@[simp] theorem rxResults_idx : s.rxResults.idx = s.idx := rfl
@[simp] theorem rxResults_filled : s.rxResults.filled = s.filled := rfl
@[simp] theorem rxResults_latch : s.rxResults.latch = s.latch := rfl
@[simp] theorem rxResults_sel : s.rxResults.sel = s.sel := rfl
@[simp] theorem rxResults_ackStatus : s.rxResults.ackStatus = s.ackStatus := rfl
@[simp] theorem rxResults_ackValid : s.rxResults.ackValid = s.ackValid := rfl
@[simp] theorem rxResults_outcome : s.rxResults.outcome = s.outcome := rfl
@[simp] theorem rxResults_fails : s.rxResults.fails = s.fails := rfl
@[simp] theorem rxResults_first : s.rxResults.first = s.first := rfl
@[simp] theorem rxResults_want : s.rxResults.want = s.want := rfl
@[simp] theorem rxResults_phase : s.rxResults.phase = s.phase := rfl
@[simp] theorem rxResults_peerWritten : s.rxResults.peerWritten = s.peerWritten := rfl
@[simp] theorem rxResults_lastStatusWritten : s.rxResults.lastStatusWritten = s.lastStatusWritten := rfl
@[simp] theorem rxResults_hist : s.rxResults.hist = s.hist := rfl
@[simp] theorem rxResults_answers : s.rxResults.answers = s.answers := rfl
@[simp] theorem rxResults_draws : s.rxResults.draws = s.draws := rfl
@[simp] theorem rxResults_inputs : s.rxResults.inputs = s.inputs := rfl
@[simp] theorem rxResults_reads : s.rxResults.reads = s.reads := rfl
@[simp] theorem rxResults_params : s.rxResults.params = s.params := rfl

/-! `State.afterReset`. -/

@[simp] theorem afterReset_cmd : s.afterReset.cmd = State.reset.cmd := rfl
@[simp] theorem afterReset_status : s.afterReset.status = State.reset.status := rfl
@[simp] theorem afterReset_regs : s.afterReset.regs = State.reset.regs := rfl
@[simp] theorem afterReset_res : s.afterReset.res = State.reset.res := rfl
@[simp] theorem afterReset_dbuf : s.afterReset.dbuf = State.reset.dbuf := rfl
@[simp] theorem afterReset_unitstat : s.afterReset.unitstat = State.reset.unitstat := rfl
@[simp] theorem afterReset_xlut : s.afterReset.xlut = State.reset.xlut := rfl
@[simp] theorem afterReset_seq : s.afterReset.seq = State.reset.seq := rfl
@[simp] theorem afterReset_att : s.afterReset.att = State.reset.att := rfl
@[simp] theorem afterReset_idx : s.afterReset.idx = State.reset.idx := rfl
@[simp] theorem afterReset_filled : s.afterReset.filled = State.reset.filled := rfl
@[simp] theorem afterReset_latch : s.afterReset.latch = State.reset.latch := rfl
@[simp] theorem afterReset_sel : s.afterReset.sel = State.reset.sel := rfl
@[simp] theorem afterReset_ackStatus : s.afterReset.ackStatus = State.reset.ackStatus := rfl
@[simp] theorem afterReset_ackValid : s.afterReset.ackValid = State.reset.ackValid := rfl
@[simp] theorem afterReset_outcome : s.afterReset.outcome = State.reset.outcome := rfl
@[simp] theorem afterReset_fails : s.afterReset.fails = State.reset.fails := rfl
@[simp] theorem afterReset_first : s.afterReset.first = State.reset.first := rfl
@[simp] theorem afterReset_want : s.afterReset.want = State.reset.want := rfl
@[simp] theorem afterReset_phase : s.afterReset.phase = State.reset.phase := rfl
@[simp] theorem afterReset_peerWritten : s.afterReset.peerWritten = State.reset.peerWritten := rfl
@[simp] theorem afterReset_lastStatusWritten : s.afterReset.lastStatusWritten = State.reset.lastStatusWritten := rfl
@[simp] theorem afterReset_hist : s.afterReset.hist = s.hist := rfl
@[simp] theorem afterReset_answers : s.afterReset.answers = s.answers := rfl
@[simp] theorem afterReset_draws : s.afterReset.draws = s.draws := rfl
@[simp] theorem afterReset_inputs : s.afterReset.inputs = s.inputs := rfl
@[simp] theorem afterReset_reads : s.afterReset.reads = s.reads := rfl
@[simp] theorem afterReset_params : s.afterReset.params = s.params := rfl

/-! `State.returning`. -/

@[simp] theorem returning_cmd (v : Word) : (s.returning v).cmd = s.cmd := rfl
@[simp] theorem returning_status (v : Word) : (s.returning v).status = s.status := rfl
@[simp] theorem returning_regs (v : Word) : (s.returning v).regs = s.regs := rfl
@[simp] theorem returning_res (v : Word) : (s.returning v).res = s.res := rfl
@[simp] theorem returning_dbuf (v : Word) : (s.returning v).dbuf = s.dbuf := rfl
@[simp] theorem returning_unitstat (v : Word) : (s.returning v).unitstat = s.unitstat := rfl
@[simp] theorem returning_xlut (v : Word) : (s.returning v).xlut = s.xlut := rfl
@[simp] theorem returning_seq (v : Word) : (s.returning v).seq = s.seq := rfl
@[simp] theorem returning_att (v : Word) : (s.returning v).att = s.att := rfl
@[simp] theorem returning_idx (v : Word) : (s.returning v).idx = s.idx := rfl
@[simp] theorem returning_filled (v : Word) : (s.returning v).filled = s.filled := rfl
@[simp] theorem returning_latch (v : Word) : (s.returning v).latch = s.latch := rfl
@[simp] theorem returning_sel (v : Word) : (s.returning v).sel = s.sel := rfl
@[simp] theorem returning_ackStatus (v : Word) : (s.returning v).ackStatus = s.ackStatus := rfl
@[simp] theorem returning_ackValid (v : Word) : (s.returning v).ackValid = s.ackValid := rfl
@[simp] theorem returning_outcome (v : Word) : (s.returning v).outcome = s.outcome := rfl
@[simp] theorem returning_fails (v : Word) : (s.returning v).fails = s.fails := rfl
@[simp] theorem returning_first (v : Word) : (s.returning v).first = s.first := rfl
@[simp] theorem returning_want (v : Word) : (s.returning v).want = s.want := rfl
@[simp] theorem returning_phase (v : Word) : (s.returning v).phase = s.phase := rfl
@[simp] theorem returning_peerWritten (v : Word) : (s.returning v).peerWritten = s.peerWritten := rfl
@[simp] theorem returning_lastStatusWritten (v : Word) :
    (s.returning v).lastStatusWritten = s.lastStatusWritten := rfl
@[simp] theorem returning_hist (v : Word) : (s.returning v).hist = s.hist := rfl
@[simp] theorem returning_answers (v : Word) : (s.returning v).answers = s.answers := rfl
@[simp] theorem returning_draws (v : Word) : (s.returning v).draws = s.draws := rfl
@[simp] theorem returning_inputs (v : Word) : (s.returning v).inputs = s.inputs := rfl
@[simp] theorem returning_reads (v : Word) : (s.returning v).reads = s.reads ++ [v] := rfl
@[simp] theorem returning_params (v : Word) : (s.returning v).params = s.params := rfl

/-! `State.returningFree`. -/

@[simp] theorem returningFree_cmd : s.returningFree.cmd = s.cmd := rfl
@[simp] theorem returningFree_status : s.returningFree.status = s.status := rfl
@[simp] theorem returningFree_regs : s.returningFree.regs = s.regs := rfl
@[simp] theorem returningFree_res : s.returningFree.res = s.res := rfl
@[simp] theorem returningFree_dbuf : s.returningFree.dbuf = s.dbuf := rfl
@[simp] theorem returningFree_unitstat : s.returningFree.unitstat = s.unitstat := rfl
@[simp] theorem returningFree_xlut : s.returningFree.xlut = s.xlut := rfl
@[simp] theorem returningFree_seq : s.returningFree.seq = s.seq := rfl
@[simp] theorem returningFree_att : s.returningFree.att = s.att := rfl
@[simp] theorem returningFree_idx : s.returningFree.idx = s.idx := rfl
@[simp] theorem returningFree_filled : s.returningFree.filled = s.filled := rfl
@[simp] theorem returningFree_latch : s.returningFree.latch = s.latch := rfl
@[simp] theorem returningFree_sel : s.returningFree.sel = s.sel := rfl
@[simp] theorem returningFree_ackStatus : s.returningFree.ackStatus = s.ackStatus := rfl
@[simp] theorem returningFree_ackValid : s.returningFree.ackValid = s.ackValid := rfl
@[simp] theorem returningFree_outcome : s.returningFree.outcome = s.outcome := rfl
@[simp] theorem returningFree_fails : s.returningFree.fails = s.fails := rfl
@[simp] theorem returningFree_first : s.returningFree.first = s.first := rfl
@[simp] theorem returningFree_want : s.returningFree.want = s.want := rfl
@[simp] theorem returningFree_phase : s.returningFree.phase = s.phase := rfl
@[simp] theorem returningFree_peerWritten : s.returningFree.peerWritten = s.peerWritten := rfl
@[simp] theorem returningFree_lastStatusWritten : s.returningFree.lastStatusWritten = s.lastStatusWritten := rfl
@[simp] theorem returningFree_hist : s.returningFree.hist = s.hist := rfl
@[simp] theorem returningFree_answers : s.returningFree.answers = s.answers := rfl
@[simp] theorem returningFree_draws : s.returningFree.draws = s.draws + 1 := rfl
@[simp] theorem returningFree_inputs : s.returningFree.inputs = s.inputs := rfl
@[simp] theorem returningFree_reads :
    s.returningFree.reads = s.reads ++ [(Config.freeByte s.draws).setWidth 32] := rfl
@[simp] theorem returningFree_params : s.returningFree.params = s.params := rfl

end Sys2Proof.Machine
end

