-- ==== Sys2Proof/Laws/Ops.lean ====
section
/-!
SUPPORT. What each shared operation can do, said once: the issue of a command, the handing over of a frame, the call of the
Transport, and the context that no continuation of the sequencer changes.
-/

namespace Sys2Proof.Machine

open Sys2Proof

/-! Commands and frames. -/

/-- A command is issued exactly while BUSY = 0 with no launch premise missing, and then its body runs on the started state. -/
theorem issue_next {code : Byte} {missing : Option Fault} {body : State → State} {s t : State} :
    issue code missing body s = .next t ↔ s.busy = false ∧ missing = none ∧ body (s.start code) = t := by
  unfold issue; cases s.busy <;> cases missing <;> simp

theorem issue_of_idle {code : Byte} {body : State → State} {s : State} (h : s.busy = false) :
    issue code none body s = .next (body (s.start code)) := issue_next.2 ⟨h, rfl, rfl⟩

theorem issue_missing {code : Byte} {f : Fault} {body : State → State} {s : State} (h : s.busy = false) :
    issue code (some f) body s = .fault f := by simp [issue, h]

/-- No launch premise is missing exactly when PEER is written, if the command uses it, and all that it sends is written. -/
theorem launchFault_none {s : State} {usesPeer : Bool} {sent : Nat} :
    s.launchFault usesPeer sent = none ↔
      (usesPeer = true → s.peerWritten = true) ∧ (dbufRead s.dbuf 0 sent).isSome = true := by
  unfold State.launchFault
  cases usesPeer <;> cases s.peerWritten <;> cases dbufRead s.dbuf 0 sent <;> simp

/-- A command that uses an unwritten PEER lacks that premise, whatever else it lacks. -/
theorem launchFault_peer {s : State} {sent : Nat} (h : s.peerWritten = false) :
    s.launchFault true sent = some .unwrittenPeer := by simp [State.launchFault, h]

/-- Without a use of PEER, or with PEER written, a byte to be sent that nothing has written is what is missing. -/
theorem launchFault_dbuf {s : State} {usesPeer : Bool} {sent : Nat} (hp : usesPeer = true → s.peerWritten = true)
    (h : dbufRead s.dbuf 0 sent = none) : s.launchFault usesPeer sent = some .unwrittenDbuf := by
  unfold State.launchFault
  cases usesPeer <;> simp_all

/-- PEER is handed over exactly when something has written it. -/
theorem withPeer_next {s t : State} {k : Out} : withPeer s k = .next t ↔ s.peerWritten = true ∧ k = .next t := by
  unfold withPeer; cases s.peerWritten <;> simp

theorem withPeer_of_written {s : State} {k : Out} (h : s.peerWritten = true) : withPeer s k = k := by simp [withPeer, h]

/-- A frame is handed over at the sequencer's turn, where `k` goes on, or with SEQ Idle, where only the call is seen. -/
theorem handFrame_next {c : Call} {turn : Bool} {k : Answer → State → State} {s t : State} :
    handFrame c turn k s = .next t ↔
      (turn = true ∧ k (s.answer c) (s.afterCall c) = t) ∨ (turn = false ∧ s.seq = .idle ∧ s.afterCall c = t) := by
  unfold handFrame; cases turn <;> by_cases h : s.seq = .idle <;> simp [h]

theorem handFrame_turn {c : Call} {turn : Bool} {k : Answer → State → State} {s : State} (h : turn = true) :
    handFrame c turn k s = .next (k (s.answer c) (s.afterCall c)) := handFrame_next.2 (.inl ⟨h, rfl⟩)

/-- A frame of the I2C-style connection is handed over at the sequencer's turn, to a written PEER, or with SEQ Idle, to the
host's own peer. -/
theorem handI2c_next {payload : List Byte} {turn : Bool} {k : Answer → State → State} {s t : State} :
    handI2c payload turn k s = .next t ↔
      (turn = true ∧ s.peerWritten = true ∧
        k (s.answer (.write s.latch.peer payload)) (s.afterCall (.write s.latch.peer payload)) = t) ∨
      (turn = false ∧ s.seq = .idle ∧ s.ownPeerRead.afterCall (.write s.ownPeer payload) = t) := by
  unfold handI2c
  cases turn
  · simp only [Bool.false_eq_true, if_false, handFrame_next, false_and, false_or, true_and]
    exact Iff.rfl
  · simp only [if_true, withPeer_next, handFrame_next, true_and, Bool.true_eq_false, false_and, or_false]

/-- The host's own peer is PEER when something has written it. -/
theorem ownPeer_of_written {s : State} (h : s.peerWritten = true) : s.ownPeer = s.regs.peer ∧ s.ownPeerRead = s := by
  cases s; cases h; exact ⟨rfl, rfl⟩

/-- The host's own peer is a free value, and counts as drawn, when nothing has written PEER. -/
theorem ownPeer_of_unwritten {s : State} (h : s.peerWritten = false) :
    s.ownPeer = Config.freeByte s.draws ∧ s.ownPeerRead = { s with draws := s.draws + 1 } := by
  simp [State.ownPeer, State.ownPeerRead, h]

/-- A precondition either lets the body run or ends the command with ProtocolViolation. -/
theorem checked_eq (s : State) (legal : Bool) (body : State → State) :
    s.checked legal body = if legal then body s else s.finish .protocolViolation := rfl

/-! The Transport's answer. -/

theorem rawAnswer_cons {s : State} {a : Answer} {as : List Answer} (h : s.answers = a :: as) : s.rawAnswer = a := by
  simp [State.rawAnswer, h]

/-- A scripted answer of the call's shape is the answer. -/
theorem answer_cons {s : State} {a : Answer} {as : List Answer} {c : Call} (h : s.answers = a :: as)
    (hs : shapeOk c a = true) : s.answer c = a := by
  simp [State.answer, rawAnswer_cons h, hs]

/-- A scripted answer outside the call's shape counts as `Err` (R76). -/
theorem answer_cons_misshapen {s : State} {a : Answer} {as : List Answer} {c : Call} (h : s.answers = a :: as)
    (hs : shapeOk c a = false) : s.answer c = .err := by
  simp [State.answer, rawAnswer_cons h, hs]

/-- The answer the block takes is `Err` or of the call's shape. -/
theorem answer_shape (s : State) (c : Call) : s.answer c = .err ∨ shapeOk c (s.answer c) = true := by
  unfold State.answer
  by_cases h : shapeOk c s.rawAnswer = true <;> simp [h]

/-- The answer is the raw one whenever it is no `Err`. -/
theorem answer_eq_raw {s : State} {c : Call} (h : s.answer c ≠ .err) : s.rawAnswer = s.answer c := by
  unfold State.answer at h ⊢
  by_cases hs : shapeOk c s.rawAnswer = true
  · simp [hs]
  · simp [hs] at h

/-- Bytes that a bulk read or a burst read returns are at most as many as it asked for. -/
theorem answer_bytes_le {s : State} {c : Call} {b : List Byte} (h : s.answer c = .bytes b) :
    (∀ p n, c = .read p n → b.length ≤ n) ∧ (∀ n, c = .slaveRead n → b.length ≤ n) := by
  have hs : shapeOk c (.bytes b) = true := by
    rcases answer_shape s c with he | hs
    · rw [he] at h; cases h
    · rwa [h] at hs
  constructor <;> intros <;> subst_vars <;> simpa [shapeOk] using hs

/-- A transferred count and its reply have the length of the payload as their bound (R73). -/
theorem answer_reply_length {s : State} {p : List Byte} {d : Bool} {r : List Byte} {n : Nat}
    (h : s.answer (.transceive p d) = .reply r n) : r.length = p.length ∧ n ≤ p.length := by
  rcases answer_shape s (.transceive p d) with he | hs
  · rw [he] at h; cases h
  · rw [h] at hs; simp [shapeOk] at hs; exact ⟨hs.2, hs.1⟩

/-- SEL after a transceive is never left at its old value, and follows `deassertAfter` (R34). -/
theorem selAfter_transceive (p : List Byte) (d : Bool) (a : Answer) (x : Sel) :
    selAfter (.transceive p d) a x = .unknown ∨ selAfter (.transceive p d) a x = if d then .deasserted else .asserted := by
  cases d <;> cases a <;> simp [selAfter]

/-! The context that no continuation changes. -/

/-- `t` differs from `s` in nothing that a continuation may not touch: the history, the script, the free draws, SEL, the
command and its latches, XLUT, the host's side, the model parameters, and the parameter registers but SDATA. -/
structure SameContext (s t : State) : Prop where
  hist        : t.hist = s.hist
  answers     : t.answers = s.answers
  draws       : t.draws = s.draws
  sel         : t.sel = s.sel
  latch       : t.latch = s.latch
  cmd         : t.cmd = s.cmd
  xlut        : t.xlut = s.xlut
  params      : t.params = s.params
  inputs      : t.inputs = s.inputs
  reads       : t.reads = s.reads
  peerWritten : t.peerWritten = s.peerWritten
  regs        : t.regs = { s.regs with sdata := t.regs.sdata }

theorem SameContext.refl (s : State) : SameContext s s := by constructor <;> rfl

theorem SameContext.trans {s t u : State} (h : SameContext s t) (g : SameContext t u) : SameContext s u where
  hist := g.hist.trans h.hist
  answers := g.answers.trans h.answers
  draws := g.draws.trans h.draws
  sel := g.sel.trans h.sel
  latch := g.latch.trans h.latch
  cmd := g.cmd.trans h.cmd
  xlut := g.xlut.trans h.xlut
  params := g.params.trans h.params
  inputs := g.inputs.trans h.inputs
  reads := g.reads.trans h.reads
  peerWritten := g.peerWritten.trans h.peerWritten
  regs := by rw [g.regs, h.regs]

theorem finish_same (s : State) (k : Kind) : SameContext s (s.finish k) := by constructor <;> rfl

theorem finishPartial_same (s : State) (k : Kind) (u : Nat) : SameContext s (s.finishPartial k u) := by
  constructor <;> rfl

theorem ackResults_same (s : State) : SameContext s s.ackResults := by constructor <;> rfl

theorem rxResults_same (s : State) : SameContext s s.rxResults := by constructor <;> rfl

theorem unitLogged_same (s : State) (k : Kind) : SameContext s (s.unitLogged k) := by
  constructor <;> rfl

theorem pageAborted_same (s : State) (k : Kind) : SameContext s (s.pageAborted k) := by
  constructor <;> rfl

theorem pageDone_same (s : State) : SameContext s s.pageDone := by
  unfold State.pageDone; split_ifs <;> constructor <;> rfl

theorem ackEnd_same (s : State) (k : Kind) : SameContext s (s.ackEnd k) := by
  unfold State.ackEnd
  split_ifs
  · exact (ackResults_same s).trans (pageDone_same _)
  · exact (ackResults_same s).trans (pageAborted_same _ _)
  · exact (ackResults_same s).trans (finish_same _ _)

theorem ackBegin_same (s : State) : SameContext s s.ackBegin := by
  unfold State.ackBegin
  dsimp only
  split_ifs
  · constructor <;> rfl
  · exact SameContext.trans (by constructor <;> rfl) (ackEnd_same _ _)

theorem ackRetry_same (s : State) : SameContext s s.ackRetry := by
  unfold State.ackRetry
  split_ifs
  · constructor <;> rfl
  · exact ackEnd_same _ _

theorem ackProbed_same (a : Answer) (s : State) : SameContext s (State.ackProbed a s) := by
  unfold State.ackProbed
  dsimp only
  split_ifs
  · constructor <;> rfl
  · exact SameContext.trans (by constructor <;> rfl) (ackEnd_same _ _)

theorem rdProbed_same (a : Answer) (s : State) : SameContext s (State.rdProbed a s) := by
  unfold State.rdProbed
  split_ifs <;> constructor <;> rfl

theorem probeAnswered_same (a : Answer) (s : State) : SameContext s (State.probeAnswered a s) := by
  unfold State.probeAnswered
  split_ifs
  · exact rdProbed_same _ _
  · exact ackProbed_same _ _

theorem ackClassified_same (c : Byte) (s : State) : SameContext s (State.ackClassified c s) := by
  unfold State.ackClassified
  dsimp only
  split
  · exact SameContext.trans (by constructor <;> rfl) (ackEnd_same _ _)
  all_goals exact SameContext.trans (by constructor <;> rfl) (ackRetry_same _)

theorem statusAnswered_same (a : Answer) (s : State) : SameContext s (State.statusAnswered a s) := by
  unfold State.statusAnswered
  split <;> split_ifs
  · constructor <;> rfl
  · exact ackClassified_same _ _
  · exact finish_same _ _
  · exact ackEnd_same _ _

theorem pageSent_same (n : Nat) (a : Answer) (s : State) : SameContext s (State.pageSent n a s) := by
  unfold State.pageSent
  split_ifs
  · exact ackBegin_same _
  · exact pageAborted_same _ _

theorem bulkAnswered_same (a : Answer) (s : State) : SameContext s (State.bulkAnswered a s) := by
  unfold State.bulkAnswered
  split <;> constructor <;> rfl

theorem nextUnit_same (s : State) : SameContext s s.nextUnit := by constructor <;> rfl

theorem sweepEnd_same (s : State) : SameContext s s.sweepEnd := by
  unfold State.sweepEnd
  dsimp only
  split <;> constructor <;> rfl

theorem unitEnd_same (s : State) (k : Kind) : SameContext s (s.unitEnd k) := by
  unfold State.unitEnd
  dsimp only
  split_ifs
  · constructor <;> rfl
  · exact (unitLogged_same s k).trans (sweepEnd_same _)

theorem writeEnd_same (s : State) (k : Kind) : SameContext s (s.writeEnd k) := by
  unfold State.writeEnd
  dsimp only
  split_ifs
  · exact SameContext.trans (by constructor <;> rfl) (unitEnd_same _ _)
  · constructor <;> rfl

theorem readDone_same (s : State) (v : Byte) : SameContext s (s.readDone v) := by
  unfold State.readDone
  split_ifs
  · exact SameContext.trans (by constructor <;> rfl) (unitEnd_same _ _)
  · constructor <;> rfl

theorem readFailed_same (s : State) : SameContext s s.readFailed := by
  unfold State.readFailed
  split_ifs
  · exact unitEnd_same _ _
  · exact finish_same _ _

theorem enableAnswered_same (a : Answer) (s : State) : SameContext s (State.enableAnswered a s) := finish_same _ _

theorem writeCommandAnswered_same (a : Answer) (s : State) : SameContext s (State.writeCommandAnswered a s) := by
  unfold State.writeCommandAnswered
  dsimp only
  split_ifs
  · constructor <;> rfl
  · constructor <;> rfl
  · constructor <;> rfl
  · exact SameContext.trans (by constructor <;> rfl) (writeEnd_same _ _)

theorem pollAnswered_same (a : Answer) (s : State) : SameContext s (State.pollAnswered a s) := by
  unfold State.pollAnswered
  dsimp only
  split
  · constructor <;> rfl
  · split_ifs <;> constructor <;> rfl

theorem cleanupAnswered_same (a : Answer) (s : State) : SameContext s (State.cleanupAnswered a s) := writeEnd_same _ _

theorem readAnswered_same (a : Answer) (s : State) : SameContext s (State.readAnswered a s) := by
  unfold State.readAnswered
  split
  · exact readDone_same _ _
  · exact readFailed_same _

theorem rxPollAgain_same (s : State) : SameContext s s.rxPollAgain := by
  unfold State.rxPollAgain
  split_ifs <;> constructor <;> rfl

theorem rxPolled_same (a : Answer) (s : State) : SameContext s (State.rxPolled a s) := by
  unfold State.rxPolled
  dsimp only
  split
  · split_ifs
    · exact SameContext.trans (by constructor <;> rfl) (rxPollAgain_same _)
    · constructor <;> rfl
  · constructor <;> rfl

theorem rxRead_same (a : Answer) (s : State) : SameContext s (State.rxRead a s) := by
  unfold State.rxRead
  dsimp only
  split
  · split_ifs
    · exact SameContext.trans (by constructor <;> rfl) (rxPollAgain_same _)
    · constructor <;> rfl
  · constructor <;> rfl

theorem transformed_same (s : State) : SameContext s s.transformed := by
  constructor <;> rfl

theorem preDelayed_same (s : State) : SameContext (s.afterDelay s.latch.settlePre) s.preDelayed := by
  constructor <;> rfl

theorem postDelayed_same (s : State) : SameContext (s.afterDelay s.latch.settlePost) s.postDelayed := finish_same _ _

theorem replied_same (n : Nat) (a : Answer) (s : State) : SameContext s (State.replied n a s) := by
  unfold State.replied
  split_ifs <;> constructor <;> rfl

/-! What the ends of the units of work leave. -/

/-- The flags of a wait that failed: LAST_STATUS_VALID as the wait left it, SUCCEEDED 0 (R29, R131). -/
theorem flagsAtEnd_withValid (f : Byte) (b : Bool) (k : Kind) (hk : k ≠ .success) :
    flagsAtEnd (flagsWithValid f b) k = if b then 0x02 else 0x00 := by
  cases k <;> first | exact absurd rfl hk | (revert f b; decide)

/-- The flags of a wait that succeeded. -/
theorem flagsAtEnd_success_withValid (f : Byte) (b : Bool) :
    flagsAtEnd (flagsWithValid f b) .success = if b then 0x03 else 0x01 := by
  revert f b; decide

/-- The busy-poll test on ten bytes (R104). -/
theorem anyNonzero_iff (r : List Byte) (h : r.length = 10) : anyNonzero r = true ↔ r ≠ List.replicate 10 0x00 := by
  rw [Ne, List.eq_replicate_iff]
  simp [anyNonzero, h]

/-- The end of a unit of a sweep: its kind is logged and counted, and the next address or the sweep's end follows (R187,
R188). -/
theorem unitEnd_effect (s : State) (k : Kind) :
    (s.unitEnd k).unitstat = bufPut .unitstat s.unitstat s.idx k.code ∧
      (s.unitEnd k).res.xfer = BitVec.ofNat 16 (s.idx + 1) ∧ (s.unitEnd k).res.attempts = s.res.attempts ∧
      (s.unitEnd k).regs = s.regs ∧ (s.unitEnd k).dbuf = s.dbuf ∧
      ((s.idx + 1 < s.latch.devSize.toNat ∧ (s.unitEnd k).seq = .sweepNext ∧ (s.unitEnd k).idx = s.idx + 1) ∨
        (s.latch.devSize.toNat ≤ s.idx + 1 ∧ (s.unitEnd k).seq = .idle ∧ (s.unitEnd k).status = statusDone)) := by
  unfold State.unitEnd State.sweepEnd
  dsimp only
  split_ifs with h
  · exact ⟨rfl, rfl, rfl, rfl, rfl, .inl ⟨h, rfl, rfl⟩⟩
  · split <;> exact ⟨rfl, rfl, rfl, rfl, rfl, .inr ⟨by omega, rfl, rfl⟩⟩

end Sys2Proof.Machine
end

