-- ==== Sys2Proof/Laws/PerInstr.lean ====
section
/-!
SUPPORT. What holds of every instruction as syntax, said per instruction.
-/

namespace Sys2Proof.Laws

open Sys2Proof

/-- The numbers of bytes that a frame of a channel can have, by which the channel's frames are told apart
(spec/30_encoding.md R91, R94, R95, R99 to R107, spec/43_slave_frame.md R211). -/
def FrameLength.allowed (f : Format) (n : Nat) : Prop :=
  match f with
  | .command => n = 1
  | .i2c => n = 1 ∨ (2 ≤ n ∧ n ≤ 257)
  | .serial => n = 1 ∨ n = 2 ∨ n = 3 ∨ n = 4 ∨ n = 10
  | .serialReply => n = 4
  | .slave => 1 ≤ n ∧ n ≤ 256

/-- A well-formed instruction's encoding has a length that its channel allows (R107). -/
def FrameLength.Statement (i : Instr) : Prop :=
  i.wellFormed = true → FrameLength.allowed i.format (encode i).length

theorem FrameLength.nop : FrameLength.Statement .nop := by
  intro _
  simp [FrameLength.allowed, Instr.format, encode]

theorem FrameLength.waitrdy : FrameLength.Statement .waitrdy := by
  intro _
  simp [FrameLength.allowed, Instr.format, encode]

theorem FrameLength.pgwrite : FrameLength.Statement .pgwrite := by
  intro _
  simp [FrameLength.allowed, Instr.format, encode]

theorem FrameLength.pgread : FrameLength.Statement .pgread := by
  intro _
  simp [FrameLength.allowed, Instr.format, encode]

theorem FrameLength.sewen : FrameLength.Statement .sewen := by
  intro _
  simp [FrameLength.allowed, Instr.format, encode]

theorem FrameLength.swrite : FrameLength.Statement .swrite := by
  intro _
  simp [FrameLength.allowed, Instr.format, encode]

theorem FrameLength.sread : FrameLength.Statement .sread := by
  intro _
  simp [FrameLength.allowed, Instr.format, encode]

theorem FrameLength.ssweepw : FrameLength.Statement .ssweepw := by
  intro _
  simp [FrameLength.allowed, Instr.format, encode]

theorem FrameLength.ssweepr : FrameLength.Statement .ssweepr := by
  intro _
  simp [FrameLength.allowed, Instr.format, encode]

theorem FrameLength.rxframe : FrameLength.Statement .rxframe := by
  intro _
  simp [FrameLength.allowed, Instr.format, encode]

theorem FrameLength.i2cProbe : FrameLength.Statement .i2cProbe := by
  intro _
  simp [FrameLength.allowed, Instr.format, encode, serEnc]

theorem FrameLength.i2cPage (start : Byte) (payload : List Byte) : FrameLength.Statement (.i2cPage start payload) := by
  intro h
  simp only [Instr.wellFormed, pageFrameOk, Bool.and_eq_true, decide_eq_true_eq] at h
  simp only [Config.pageReach] at h
  simp only [FrameLength.allowed, Instr.format, encode, List.length_cons]
  omega

theorem FrameLength.serEwen : FrameLength.Statement .serEwen := by
  intro _
  simp [FrameLength.allowed, Instr.format, encode, serEnc]

theorem FrameLength.serWrite (a : SerAddr) (d : Byte) : FrameLength.Statement (.serWrite a d) := by
  intro _
  simp [FrameLength.allowed, Instr.format, encode, serEnc]

theorem FrameLength.serRead (a : SerAddr) : FrameLength.Statement (.serRead a) := by
  intro _
  simp [FrameLength.allowed, Instr.format, encode, serEnc]

theorem FrameLength.serPoll : FrameLength.Statement .serPoll := by
  intro _
  simp [FrameLength.allowed, Instr.format, encode, serEnc]

theorem FrameLength.serIdle : FrameLength.Statement .serIdle := by
  intro _
  simp [FrameLength.allowed, Instr.format, encode, serEnc]

theorem FrameLength.serReadReply (v : Byte) : FrameLength.Statement (.serReadReply v) := by
  intro _
  simp [FrameLength.allowed, Instr.format, encode]

theorem FrameLength.slaveFrame (bytes : List Byte) : FrameLength.Statement (.slaveFrame bytes) := by
  intro h
  simp only [Instr.wellFormed, slaveFrameOk, Bool.and_eq_true, decide_eq_true_eq] at h
  exact h

end Sys2Proof.Laws
end

