-- ==== Sys2Proof/Laws/Step.lean ====
section
/-!
SUPPORT. What a step can do, said once: the moves of the sequencer, one case for each row of the transition table
(spec/44_common_semantics.md R313), and the acts of the host.
-/

namespace Sys2Proof.Machine

open Sys2Proof

/-- The moves of the sequencer: from `s` to each state it can be in after its step, by SEQ (R313). -/
inductive SeqMove (s : State) : State → Prop where
  | rest (h : s.seq = .idle) : SeqMove s s
  | probe (h : s.seq = .ackProbe) (hp : s.peerWritten = true) :
      SeqMove s (State.ackProbed (s.answer (.write s.latch.peer (encode .i2cProbe)))
        (s.afterCall (.write s.latch.peer (encode .i2cProbe))))
  | status (h : s.seq = .ackStatus) (hp : s.peerWritten = true) :
      SeqMove s (State.statusAnswered (s.answer (.getStatus s.latch.peer)) (s.afterCall (.getStatus s.latch.peer)))
  | page (h : s.seq = .pgSend) (hp : s.peerWritten = true) (payload : List Byte)
      (hr : dbufRead s.dbuf s.pageStart s.latch.pageSize.toNat = some payload) :
      SeqMove s (State.pageSent (payload.length + 1)
        (s.answer (.write s.latch.peer (BitVec.ofNat 8 s.pageStart :: payload)))
        (s.afterCall (.write s.latch.peer (BitVec.ofNat 8 s.pageStart :: payload))))
  | readProbe (h : s.seq = .rdProbe) (hp : s.peerWritten = true) :
      SeqMove s (State.rdProbed (s.answer (.write s.latch.peer (encode .i2cProbe)))
        (s.afterCall (.write s.latch.peer (encode .i2cProbe))))
  | bulk (h : s.seq = .rdBulk) (hp : s.peerWritten = true) :
      SeqMove s (State.bulkAnswered (s.answer (.read s.latch.peer s.latch.len.toNat))
        (s.afterCall (.read s.latch.peer s.latch.len.toNat)))
  | enable (h : s.seq = .enableWrites) :
      SeqMove s (State.enableAnswered (s.answer (.transceive (encode .serEwen) true))
        (s.afterCall (.transceive (encode .serEwen) true)))
  | write (h : s.seq = .wrCmd) (d : Byte) (hd : s.unitData = some d) :
      SeqMove s (State.writeCommandAnswered (s.answer (.transceive (encode (.serWrite s.unitAddr d)) true))
        (s.afterCall (.transceive (encode (.serWrite s.unitAddr d)) true)))
  | poll (h : s.seq = .wrPoll) :
      SeqMove s (State.pollAnswered (s.answer (.transceive (encode .serPoll) false))
        (s.afterCall (.transceive (encode .serPoll) false)))
  | cleanup (h : s.seq = .wrCleanup) :
      SeqMove s (State.cleanupAnswered (s.answer (.transceive (encode .serIdle) true))
        (s.afterCall (.transceive (encode .serIdle) true)))
  | read (h : s.seq = .rdCmd) :
      SeqMove s (State.readAnswered (s.answer (.transceive (encode (.serRead s.unitAddr)) true))
        (s.afterCall (.transceive (encode (.serRead s.unitAddr)) true)))
  | nextUnit (h : s.seq = .sweepNext) : SeqMove s s.nextUnit
  | backlog (h : s.seq = .receiving) (hw : s.want = 0) :
      SeqMove s (State.rxPolled (s.answer .bytesAvailable) (s.afterCall .bytesAvailable))
  | burst (h : s.seq = .receiving) (hw : s.want ≠ 0) :
      SeqMove s (State.rxRead (s.answer (.slaveRead s.want)) (s.afterCall (.slaveRead s.want)))
  | transform (h : s.seq = .complete) : SeqMove s s.transformed
  | delayPre (h : s.seq = .responding) (hp : s.phase = .preDelay) : SeqMove s s.preDelayed
  | reply (h : s.seq = .responding) (hp : s.phase = .reply) (bytes : List Byte)
      (hr : dbufRead s.dbuf 0 s.latch.rxTarget.toNat = some bytes) :
      SeqMove s (State.replied bytes.length (s.answer (.slaveWrite bytes)) (s.afterCall (.slaveWrite bytes)))
  | delayPost (h : s.seq = .responding) (hp : s.phase = .postDelay) : SeqMove s s.postDelayed

/-- The sequencer's step is one of its moves. -/
theorem seqMove_of_next {s t : State} (h : seqStep s = .next t) : SeqMove s t := by
  unfold seqStep State.nextMove at h
  cases hq : s.seq <;> simp only [hq] at h
  case idle => cases h; exact .rest hq
  case ackProbe =>
    simp only [exec, execI2cProbe, hq, handI2c_next, reduceCtorEq, or_false, decide_true, true_and, Bool.true_eq_false,
      false_and] at h
    obtain ⟨hp, h⟩ := h
    rw [State.probeAnswered, if_neg (by rw [afterCall_seq, hq]; decide)] at h
    exact h ▸ .probe hq hp
  case ackStatus =>
    obtain ⟨hp, h⟩ := withPeer_next.1 h
    cases h; exact .status hq hp
  case pgSend =>
    cases hr : dbufRead s.dbuf s.pageStart s.latch.pageSize.toNat with
    | none => simp only [State.pageMove, hr, reduceCtorEq] at h
    | some payload =>
      simp only [State.pageMove, hr, exec, execI2cPage, hq, handI2c_next, decide_true, true_and, Bool.true_eq_false,
        false_and, or_false, encode, List.length_cons] at h
      obtain ⟨hp, h⟩ := h
      exact h ▸ .page hq hp payload hr
  case rdProbe =>
    simp only [exec, execI2cProbe, hq, handI2c_next, or_true, decide_true, true_and, Bool.true_eq_false, false_and,
      or_false] at h
    obtain ⟨hp, h⟩ := h
    rw [State.probeAnswered, if_pos (by rw [afterCall_seq, hq])] at h
    exact h ▸ .readProbe hq hp
  case rdBulk =>
    obtain ⟨hp, h⟩ := withPeer_next.1 h
    cases h; exact .bulk hq hp
  case enableWrites =>
    simp only [exec, execSerEwen, hq, handFrame, decide_true, if_true, Host.Outcome.next.injEq] at h
    exact h ▸ .enable hq
  case wrCmd =>
    cases hd : s.unitData with
    | none => simp only [State.writeMove, hd, reduceCtorEq] at h
    | some d =>
      simp only [State.writeMove, hd, exec, execSerWrite, hq, handFrame, decide_true, if_true,
        Host.Outcome.next.injEq] at h
      exact h ▸ .write hq d hd
  case wrPoll =>
    simp only [exec, execSerPoll, hq, handFrame, decide_true, if_true, Host.Outcome.next.injEq] at h
    exact h ▸ .poll hq
  case wrCleanup =>
    simp only [exec, execSerIdle, hq, handFrame, decide_true, if_true, Host.Outcome.next.injEq] at h
    exact h ▸ .cleanup hq
  case rdCmd =>
    simp only [exec, execSerRead, hq, handFrame, decide_true, if_true, Host.Outcome.next.injEq] at h
    exact h ▸ .read hq
  case sweepNext => cases h; exact .nextUnit hq
  case receiving =>
    by_cases hw : s.want = 0
    · simp only [hw, if_true, pollBacklog, Host.Outcome.next.injEq] at h
      exact h ▸ .backlog hq hw
    · simp only [hw, if_false, readBurst, Host.Outcome.next.injEq] at h
      exact h ▸ .burst hq hw
  case complete => cases h; exact .transform hq
  case responding =>
    cases hp : s.phase <;> simp only [hp] at h
    case preDelay => cases h; exact .delayPre hq hp
    case postDelay => cases h; exact .delayPost hq hp
    case reply =>
      cases hr : dbufRead s.dbuf 0 s.latch.rxTarget.toNat with
      | none => simp only [State.replyMove, hr, reduceCtorEq] at h
      | some bytes =>
        simp only [State.replyMove, hr, exec, execSlaveFrame, encode, hq, hp, handFrame, true_and, decide_true, if_true,
          Host.Outcome.next.injEq] at h
        exact h ▸ .reply hq hp bytes hr

/-! The host's accesses. -/

theorem hostRead_next {n : Nat} {s t : State} (h : hostRead n s = .next t) :
    (s.busy = false ∨ n = 1) ∧ (t = s.returningFree ∨ t = s.returning (s.regValue n)) := by
  unfold hostRead at h
  split_ifs at h with h1 h2
  · cases h; exact ⟨by cases hb : s.busy <;> simp_all, .inl rfl⟩
  · cases h; exact ⟨by cases hb : s.busy <;> simp_all, .inr rfl⟩

theorem hostWrite_next {n : Nat} {v : Word} {s t : State} :
    hostWrite n v s = .next t ↔ s.busy = false ∧ s.regWritten n v = t := by
  unfold hostWrite; cases s.busy <;> simp

theorem hostBufRead_next {sp : BufSpace} {i : Nat} {s t : State} (h : hostBufRead sp i s = .next t) :
    s.busy = false ∧ i < sp.size ∧ (t = s.returningFree ∨ ∃ v, t = s.returning v) := by
  unfold hostBufRead at h
  split_ifs at h with h1 h2
  refine ⟨by simpa using h1, by omega, ?_⟩
  split at h <;> cases h
  · exact .inr ⟨_, rfl⟩
  · exact .inl rfl

theorem hostBufWrite_next {sp : BufSpace} {i : Nat} {v : Byte} {s t : State} :
    hostBufWrite sp i v s = .next t ↔ s.busy = false ∧ i < sp.size ∧ s.bufWritten sp i v = t := by
  unfold hostBufWrite
  cases s.busy <;> by_cases h : sp.size ≤ i <;> simp [h, Nat.not_lt.2, Nat.lt_of_not_le]

/-- A Transport call of the host's own completes exactly while BUSY = 0, and the block only sees the call. -/
theorem hostTransport_next {c : Call} {s t : State} :
    hostTransport c s = .next t ↔ s.busy = false ∧ s.afterCall c = t := by
  unfold hostTransport; cases s.busy <;> simp

/-- Bytes that are no frame are seen as one call, or, on the reply's connection, not at all. -/
theorem handRaw_next (conn : Connection) (bytes : List Byte) (s : State) :
    handRaw conn bytes s = .next s ∨ (∃ c, handRaw conn bytes s = .next (s.afterCall c)) ∨
      ∃ c, handRaw conn bytes s = .next (s.ownPeerRead.afterCall c) := by
  cases conn
  · exact .inr (.inr ⟨_, rfl⟩)
  · exact .inr (.inl ⟨_, rfl⟩)
  · exact .inl rfl
  · exact .inr (.inl ⟨_, rfl⟩)

theorem resetInput_next {s t : State} (h : resetInput s = .next t) :
    t = s.afterReset ∧ (s.busy = false ∨ s.params.resetWhileBusy = .abandon) := by
  unfold resetInput at h
  split_ifs at h with h1
  cases h
  refine ⟨rfl, ?_⟩
  cases hb : s.busy with
  | false => exact .inl rfl
  | true =>
    refine .inr ?_
    cases hp : s.params.resetWhileBusy with
    | abandon => rfl
    | refuse => exact absurd ⟨hb, hp⟩ h1

/-- With no act of the host, a running command makes its move and an idle block stays as it is. -/
theorem freeRun_next {s t : State} : freeRun s = .next t ↔ (s.busy = true ∧ seqStep s = .next t) ∨ (s.busy = false ∧ s = t) := by
  unfold freeRun; cases s.busy <;> simp

/-- A step is a free run of the block, or the host's next act at the state that no longer lists it. -/
theorem step_next {s t : State} (h : step s = .next t) :
    freeRun s = .next t ∨ ∃ inp rest, s.inputs = inp :: rest ∧ hostAct inp { s with inputs := rest } = .next t := by
  unfold step turn at h
  split at h
  · exact .inl h
  · next rest hi =>
    split_ifs at h
    · exact .inr ⟨_, rest, hi, h⟩
    · exact .inl h
  · next inp rest _ hi => exact .inr ⟨inp, rest, hi, h⟩

/-- With no act of the host pending the step is the sequencer's, while a command runs. -/
theorem step_busy {s : State} (hi : s.inputs = []) (hb : s.busy = true) : step s = seqStep s := by
  simp [step, turn, hi, freeRun, hb]

/-- With no act of the host pending and no command running the step changes nothing. -/
theorem step_idle {s : State} (hi : s.inputs = []) (hb : s.busy = false) : step s = .next s := by
  simp [step, turn, hi, freeRun, hb]

end Sys2Proof.Machine
end

