-- ==== Sys2Proof/Tests/Slice0.lean ====
section
/-!
SUPPORT. Tests of the model: well-formedness, decoding of words written out from the spec's encodings, single steps whose
expected results are those of spec/95_test_vectors.md (the vector is named at each), and for every statement with
hypotheses a witness that meets them.
-/

namespace Sys2Proof.Tests

open Sys2Proof Sys2Proof.Machine

/-! The states of the tests. -/

/-- The test instantiation T0 of the predicates, on the codes 0x00 to 0x08 (95_test_vectors.md section 0). -/
def paramsT0 : Params where
  busyCodes              := [0x01, 0x03, 0x05, 0x07]
  idleCodes              := [0x02, 0x03, 0x06, 0x07]
  nackedCodes            := [0x04, 0x05, 0x06, 0x07]
  resetWhileBusy         := .refuse
  pgreadProbeReadsStatus := false
  cleanupAfterCmdFailure := false

/-- The reset state with PEER = 0x50 written, T0, SETTLE_PRE = 3 and SETTLE_POST = 7. -/
def base : State :=
  { State.reset with
    params := paramsT0, peerWritten := true
    regs := { ParamRegs.reset with peer := 0x50, settlePre := 3, settlePost := 7 } }

/-- The same block with a host act, or a script of answers, to come. -/
def asked (inp : Input) : State := { base with inputs := [inp] }
def scripted (answers : List Answer) : State := { base with answers := answers }

/-- A command in progress at a sequencer state, with its Transport answers to come. -/
def running (i : Instr) (q : Seq) (answers : List Answer) : State :=
  { base.start i.code with seq := q, answers := answers }

/-- Parameters for the small commands of the tests: every length and limit 2, pages of one byte. -/
def smallRegs (r : ParamRegs) : ParamRegs :=
  { r with
    pageSize := 1, len := 2, pollLimit := 2, devSize := 2
    rxTarget := 2, rxPollLimit := 2, retryLimit := 2 }

/-- A state with the small parameters in registers and latches, and two written DBUF bytes. -/
def small (s : State) : State :=
  { s with regs := smallRegs s.regs, latch := smallRegs s.latch, dbuf := [(0, 0x61), (1, 0x7B)] }

/-- The result, the attempts and the flags of a state. -/
def endsWith (result : Byte) (attempts : Word) (flags : Byte) (s : State) : Bool :=
  decide (s.status = 0x02) && decide (s.seq = .idle) && decide (s.res.result = result)
    && decide (s.res.attempts = attempts) && decide (s.res.flags = flags)

/-! Well-formedness: an ill-formed term for each check (R67, R95, R211). -/

theorem test_wf_page_without_payload : (Instr.i2cPage 0x00 []).wellFormed = false := by decide
theorem test_wf_page_misaligned : (Instr.i2cPage 0x03 [0x11, 0x22]).wellFormed = false := by decide
theorem test_wf_page_past_the_end : (Instr.i2cPage 0xFF (List.replicate 5 0x00)).wellFormed = false := by decide
theorem test_wf_slave_frame_empty : (Instr.slaveFrame []).wellFormed = false := by decide
theorem test_wf_slave_frame_too_long : (Instr.slaveFrame (List.replicate 257 0x00)).wellFormed = false := by
  simp only [Instr.wellFormed, slaveFrameOk, List.length_replicate]; decide

/-! Decoding: every constructor's word, written out bit by bit (R91, R94, R95, R99 to R106). -/

theorem test_decode_nop : decode .command [0b00000000] = .ok .nop := by decide
theorem test_decode_waitrdy : decode .command [0b00000001] = .ok .waitrdy := by decide
theorem test_decode_pgwrite : decode .command [0b00000010] = .ok .pgwrite := by decide
theorem test_decode_pgread : decode .command [0b00000011] = .ok .pgread := by decide
theorem test_decode_sewen : decode .command [0b00010000] = .ok .sewen := by decide
theorem test_decode_swrite : decode .command [0b00010001] = .ok .swrite := by decide
theorem test_decode_sread : decode .command [0b00010010] = .ok .sread := by decide
theorem test_decode_ssweepw : decode .command [0b00010011] = .ok .ssweepw := by decide
theorem test_decode_ssweepr : decode .command [0b00010100] = .ok .ssweepr := by decide
theorem test_decode_rxframe : decode .command [0b00100000] = .ok .rxframe := by decide
theorem test_decode_reserved : decode .command [0x21] = .error (.reservedCommand 0x21) := by decide
theorem test_decode_i2cProbe : decode .i2c [0b00000000] = .ok .i2cProbe := by decide
theorem test_decode_i2cPage : decode .i2c [0b00000011, 0b01011100] = .ok (.i2cPage 0x03 [0x5C]) := by decide
theorem test_decode_serEwen : decode .serial [0b00000010, 0b01111111] = .ok .serEwen := by decide
theorem test_decode_serWrite : decode .serial [0b00000010, 0b10101010, 0b01011010] = .ok (.serWrite 0x2A 0x5A) := by
  decide
theorem test_decode_serRead :
    decode .serial [0b00000011, 0b00101010, 0b00000000, 0b00000000] = .ok (.serRead 0x2A) := by decide
theorem test_decode_serPoll : decode .serial [0, 0, 0, 0, 0, 0, 0, 0, 0, 0] = .ok .serPoll := by decide
theorem test_decode_serIdle : decode .serial [0b00000000] = .ok .serIdle := by decide
theorem test_decode_serReadReply :
    decode .serialReply [0xFF, 0xFF, 0b10110100, 0b10000000] = .ok (.serReadReply 0x69) := by decide
theorem test_decode_slaveFrame : decode .slave [0x68, 0x69] = .ok (.slaveFrame [0x68, 0x69]) := by decide

/-- Words of the opcode table, numbered as the table numbers them (log 19). -/
theorem test_table_words :
    decodeTableWord 8 0b00010011 = some .ssweepw ∧
    decodeTableWord 16 0b0000001001111111 = some .serEwen ∧
    decodeTableWord 24 0b000000101010101001011010 = some (.serWrite 0x2A 0x5A) ∧
    decodeTableWord 32 0b00000011001010100000000000000000 = some (.serRead 0x2A) ∧
    decodeTableWord 80 0 = some .serPoll := by decide

/-- The reply vectors of section 2.3. -/
theorem test_read_reply_vectors :
    readReplyValue 0xB4 0x80 = 0x69 ∧ readReplyValue 0x80 0x7F = 0x00 ∧ readReplyValue 0x7F 0x80 = 0xFF ∧
    readReplyValue 0x40 0x00 = 0x80 ∧ readReplyValue 0x01 0x00 = 0x02 ∧ readReplyValue 0x00 0x80 = 0x01 := by decide

/-! The commands. -/

/-- 2.1: RESULT = 0, empty H, FLAGS = 0x01; R92: LAST_STATUS = 0 too. -/
theorem test_nop_succeeds :
    nextAnd (exec .nop { base with res.lastStatus := 0x04 })
      (fun t => endsWith 0 0 0x01 t && decide (t.hist = []) && decide (t.res.lastStatus = 0)) = true := by decide
/-- 2.1: RESULT = 3, empty H, FLAGS = 0x00. -/
theorem test_reserved_code_is_refused_by_the_block :
    nextAnd (step (asked (.hostWrite 0 0x7F))) (fun t => endsWith 3 0 0x00 t && decide (t.cmd = 0x7F)) = true := by
  decide
/-- 2.1: the first effect is a probe; STATUS = 0x01 meanwhile. -/
theorem test_waitrdy_goes_to_its_probe :
    nextAnd (exec .waitrdy base) (fun t => decide (t.seq = .ackProbe) && decide (t.status = 0x01)) = true := by decide
/-- V10f. -/
theorem test_waitrdy_without_attempts :
    nextAnd (exec .waitrdy { base with regs.retryLimit := 0 }) (endsWith 2 0 0x00) = true := by decide
/-- V11a. -/
theorem test_pgwrite_of_nothing :
    nextAnd (exec .pgwrite { base with regs.len := 0 }) (endsWith 0 0 0x01) = true := by decide
/-- V11b. -/
theorem test_pgwrite_of_part_of_a_page :
    nextAnd (exec .pgwrite { base with regs.len := 12 }) (endsWith 3 0 0x00) = true := by decide
/-- V12d. -/
theorem test_pgread_of_nothing :
    nextAnd (exec .pgread { base with regs.len := 0 }) (endsWith 3 0 0x00) = true := by decide
/-- V12h: LEN = 256 is legal. -/
theorem test_pgread_of_the_whole_buffer :
    nextAnd (exec .pgread { base with regs.len := 256 }) (fun t => decide (t.seq = .rdProbe)) = true := by decide
/-- 2.1: the first effect is the write-enable frame. -/
theorem test_sewen_starts :
    nextAnd (exec .sewen base) (fun t => decide (t.seq = .enableWrites) && decide (t.status = 0x01)) = true := by decide
/-- V14i. -/
theorem test_swrite_of_an_address_of_eight_bits :
    nextAnd (exec .swrite { base with regs.saddr := 0x80 }) (endsWith 3 0 0x00) = true := by decide
/-- V15a: SADDR = 0x7F is legal. -/
theorem test_sread_of_the_last_address :
    nextAnd (exec .sread { base with regs.saddr := 0x7F }) (fun t => decide (t.seq = .rdCmd)) = true := by decide
/-- V16a: RESULT = 3, UNITSTAT untouched. -/
theorem test_ssweepw_of_no_address :
    nextAnd (exec .ssweepw { base with regs.devSize := 0, unitstat := [(0, 0x01)] })
      (fun t => endsWith 3 0 0x00 t && decide (t.unitstat = [(0, 0x01)])) = true := by decide
/-- V16b. -/
theorem test_ssweepw_past_the_addresses :
    nextAnd (exec .ssweepw { base with regs.devSize := 129 }) (endsWith 3 0 0x00) = true := by decide
/-- V19g: legal. -/
theorem test_ssweepr_after_reset :
    nextAnd (exec .ssweepr State.reset) (fun t => decide (t.seq = .sweepNext)) = true := by decide
/-- V18c. -/
theorem test_rxframe_without_polls :
    nextAnd (exec .rxframe { base with regs.rxPollLimit := 0 }) (endsWith 2 0 0x00) = true := by decide
/-- V18e. -/
theorem test_rxframe_of_too_many_bytes :
    nextAnd (exec .rxframe { base with regs.rxTarget := 257 }) (endsWith 3 0 0x00) = true := by decide

/-! The frames. -/

/-- V10d. -/
theorem test_probe_not_counted :
    nextAnd (exec .i2cProbe (running .waitrdy .ackProbe [.count 0]))
      (fun t => endsWith 1 1 0x00 t && decide (t.hist = [.call (.write 0x50 [0x00]) (.count 0)])) = true := by decide
/-- V12c: no read issued. -/
theorem test_probe_of_pgread :
    nextAnd (exec .i2cProbe (running .pgread .rdProbe [.count 0]))
      (fun t => endsWith 1 0 0x00 t && decide (t.res.xfer = 0)) = true := by decide
/-- V11f: the page, then its wait. -/
theorem test_page_sent :
    nextAnd (exec (.i2cPage 0x00 [1, 2, 3, 4, 5, 6, 7, 8]) (running .pgwrite .pgSend [.count 9]))
      (fun t => decide (t.seq = .ackProbe) &&
        decide (t.hist = [.call (.write 0x50 [0, 1, 2, 3, 4, 5, 6, 7, 8]) (.count 9)])) = true := by decide
/-- V11l. -/
theorem test_page_count_too_large :
    nextAnd (exec (.i2cPage 0x00 [1, 2, 3, 4, 5, 6, 7, 8]) (running .pgwrite .pgSend [.count 10]))
      (fun t => endsWith 4 0 0x00 t && decide (t.res.cause = 1) && decide (t.res.unit = 0)) = true := by decide
/-- V13a. -/
theorem test_enable_frame :
    nextAnd (exec .serEwen (running .sewen .enableWrites [.reply [0xFF, 0xFF] 2])) (endsWith 0 0 0x01) = true := by
  decide
/-- V13c: SEL unknown. -/
theorem test_enable_frame_fails :
    nextAnd (exec .serEwen (running .sewen .enableWrites [.err]))
      (fun t => endsWith 1 0 0x00 t && decide (t.sel = .unknown)) = true := by decide
/-- V14e: no chunk, no cleanup. -/
theorem test_write_frame_short :
    nextAnd (exec (.serWrite 0x2A 0x5A) (running .swrite .wrCmd [.reply [0, 0, 0] 2]))
      (fun t => endsWith 1 0 0x00 t &&
        decide (t.hist = [.call (.transceive [0x02, 0xAA, 0x5A] true) (.reply [0, 0, 0] 2)])) = true := by decide
/-- V14d. -/
theorem test_write_frame_without_chunks :
    nextAnd (exec (.serWrite 0x2A 0x5A) { running .swrite .wrCmd [.reply [0, 0, 0] 3] with latch.pollLimit := 0 })
      (fun t => decide (t.seq = .wrCleanup) && decide (t.outcome = .busyTimeout)) = true := by decide
/-- V14b. -/
theorem test_poll_done_by_one_bit :
    nextAnd (exec .serPoll (running .swrite .wrPoll [.reply [0, 0, 0, 0, 0, 0, 0, 0, 0, 1] 10]))
      (fun t => decide (t.seq = .wrCleanup) && decide (t.outcome = .success) && decide (t.att = 1) &&
        decide (t.sel = .asserted)) = true := by decide
/-- V14f. -/
theorem test_poll_short :
    nextAnd (exec .serPoll { running .swrite .wrPoll [.reply [0, 0, 0, 0, 0, 0, 0, 0, 0, 0] 7] with att := 1 })
      (fun t => decide (t.seq = .wrCleanup) && decide (t.outcome = .transportError) && decide (t.att = 2)) = true := by
  decide
/-- V14g. -/
theorem test_cleanup_fails_after_success :
    nextAnd (exec .serIdle { running .swrite .wrCleanup [.reply [0] 0] with att := 1, outcome := .success })
      (endsWith 1 1 0x00) = true := by decide
/-- V14h: first failure wins, SEL unknown. -/
theorem test_cleanup_fails_after_timeout :
    nextAnd (exec .serIdle { running .swrite .wrCleanup [.err] with att := 1, outcome := .busyTimeout })
      (fun t => endsWith 2 1 0x00 t && decide (t.sel = .unknown)) = true := by decide
/-- V15a. -/
theorem test_read_frame :
    nextAnd (exec (.serRead 0x7F) (running .sread .rdCmd [.reply [0x00, 0x00, 0x7F, 0x80] 4]))
      (fun t => endsWith 0 0 0x01 t && decide (t.regs.sdata = 0xFF)) = true := by decide
/-- V15b: SDATA unchanged. -/
theorem test_read_frame_short :
    nextAnd (exec (.serRead 0x7F) { running .sread .rdCmd [.reply [0x00, 0x00, 0x7F, 0x80] 3] with regs.sdata := 0x11 })
      (fun t => endsWith 1 0 0x00 t && decide (t.regs.sdata = 0x11)) = true := by decide
/-- V17a: DBUF[2] = 0x33, UNITSTAT[2] = 00. -/
theorem test_read_reply_of_a_sweep :
    nextAnd (exec (.serReadReply 0x33) { running .ssweepr .rdCmd [] with idx := 2, latch.devSize := 4 })
      (fun t => decide (t.dbuf = [(2, 0x33)]) && decide (t.unitstat = [(2, 0x00)]) && decide (t.res.xfer = 3) &&
        decide (t.idx = 3)) = true := by decide
/-- V18i: no D(7). -/
theorem test_reply_frame_short :
    nextAnd (exec (.slaveFrame [0x41, 0x7B]) { running .rxframe .responding [.count 1] with phase := .reply })
      (fun t => endsWith 1 0 0x00 t && decide (t.hist = [.call (.slaveWrite [0x41, 0x7B]) (.count 1)])) = true := by
  decide
/-- V18a: the post-delay is next. -/
theorem test_reply_frame_sent :
    nextAnd (exec (.slaveFrame [0x41, 0x42]) { running .rxframe .responding [.count 2] with phase := .reply })
      (fun t => decide (t.seq = .responding) && decide (t.phase = .postDelay)) = true := by decide
/-- A wire frame at another sequencer state is nobody's (R79; log 17). -/
theorem test_frame_out_of_turn :
    (match exec .serPoll (running .swrite .wrCmd []) with | .refused r => decide (r = .frameOutOfTurn) | _ => false) = true := by
  decide

/-! The sequencer's other moves. -/

/-- V10h, V10m: the classes of the statuses under T0. -/
theorem test_status_classes :
    [0x00, 0x01, 0x02, 0x04, 0x03, 0x05, 0x06, 0x07, 0x08].map (classify paramsT0) =
      [.ack, .busy, .idle, .nack, .busy, .busy, .idle, .busy, .ack] := by decide
/-- V12b: XFER = 2, DBUF[0..1] = DE AD. -/
theorem test_bulk_read_short :
    nextAnd (seqStep { running .pgread .rdBulk [.bytes [0xDE, 0xAD]] with latch.len := 4 })
      (fun t => endsWith 1 0 0x00 t && decide (t.res.xfer = 2) && decide (t.dbuf = [(0, 0xDE), (1, 0xAD)])) = true := by
  decide
/-- V8: 28 bytes are asked for. -/
theorem test_burst_never_overruns :
    nextAnd (seqStep { running .rxframe .receiving [.count 140] with filled := 100 }) (fun t => decide (t.want = 28)) = true := by
  decide
/-- V18i and the spot values of section 2.7. -/
theorem test_transform_and_table :
    transformFrame [] [(0, 0x61), (1, 0x7B), (2, 0x61)] 2 = [(0, 0x41), (1, 0x7B), (2, 0x61)] ∧
      [0x60, 0x7A, 0x41, 0x00, 0xE9, 0xFF].map (xlutAt []) = [0x60, 0x5A, 0x41, 0x00, 0xE9, 0xFF] := by decide
/-- V19b. -/
theorem test_missing_register :
    nextAnd (step (asked (.hostRead 24))) (fun t => decide (t.reads = [0])) = true := by decide
/-- V19e: model fault. -/
theorem test_unwritten_peer :
    (match step (State.reset.withFetchWord 8 0x01) with | .fault f => decide (f = .unwrittenPeer) | _ => false) = true := by
  decide
/-- V19d: model fault. -/
theorem test_unwritten_dbuf :
    (match exec .pgwrite { base with regs.len := 8 } with | .fault f => decide (f = .unwrittenDbuf) | _ => false) = true := by
  decide
/-- R186: one unwritten byte of DBUF[0..DEV_SIZE-1] is a fault at the launch. -/
theorem test_unwritten_sweep_data :
    (match exec .ssweepw { small base with dbuf := [(0, 0x61)] } with
      | .fault f => decide (f = .unwrittenDbuf) | _ => false) = true := by decide
/-- R282: the host's own frame needs no PEER. -/
theorem test_direct_probe_before_any_command :
    nextAnd (exec .i2cProbe { State.reset with answers := [.count 1] }) (fun t => decide (t.hist.length = 1)) = true := by
  decide
/-- R282: any call of the host's own is one event. -/
theorem test_direct_status_read :
    nextAnd (step { asked (.transport (.getStatus 0x51)) with answers := [.status 0x00] })
      (fun t => decide (t.hist = [.call (.getStatus 0x51) (.status 0x00)])) = true := by decide
/-- V19a: UNITSTAT all 0xFF, DBUF without a value. -/
theorem test_reset_buffers :
    bufGet .unitstat State.reset.unitstat 127 = some 0xFF ∧ bufGet .dbuf State.reset.dbuf 0 = none := by decide

/-! Witnesses: states and operands that meet the hypotheses of the statements. -/

theorem witness_DecodeReadsBackEveryEncoding :
    (Instr.i2cPage 0x00 (List.replicate 256 0x5C)).wellFormed = true ∧ (Instr.i2cPage 0xFF [0x5C]).wellFormed = true ∧
      (Instr.slaveFrame [0x68]).wellFormed = true ∧ (Instr.slaveFrame (List.replicate 256 0x68)).wellFormed = true := by
  simp only [Instr.wellFormed, slaveFrameOk, pageFrameOk, List.length_replicate]; decide
theorem witness_DecodedBytesAreTheEncoding :
    Format.serial ≠ .serialReply ∧ decode .serial [0x02, 0xFF, 0xFF] = .ok (.serWrite 0x7F 0xFF) := by decide
theorem witness_DecoderIsTotalOnAllCodes :
    (0x04 : Byte) ∉ commandCodes ∧ (0xFF : Byte) ∉ commandCodes := by decide
theorem witness_StepRunsTheWrittenCommand :
    (asked (.hostWrite 0 0x120)).inputs = .hostWrite 0 0x120 :: [] ∧
      decode .command [(0x120 : Word).setWidth 8] = .ok .rxframe := by decide
theorem witness_StepRunsTheDirectFrame :
    (asked (.wire .serial [0x00])).inputs = .wire .serial [0x00] :: [] ∧ (asked (.wire .serial [0x00])).busy = false ∧
      decode Connection.serial.format [0x00] = .ok .serIdle ∧ decode Connection.i2c.format [0x01] = .error .notAProbe ∧
      decode Connection.serial.format [0x01] = .error .foreignSerialFrame ∧
      decode Connection.slave.format [] = .error (.wrongLength 0) ∧
      base.peerWritten = true ∧ State.reset.peerWritten = false ∧
      decode Connection.serialReply.format [] = .error (.wrongLength 0) := by decide
theorem witness_StepRunsTheDirectFrame_call :
    ∀ a ∈ [Answer.reply [0xFF] 1, .err],
      ({ asked (.transport (.transceive [0x00] true)) with answers := [a] }).inputs =
        .transport (.transceive [0x00] true) :: [] ∧
      ({ asked (.transport .bytesAvailable) with answers := [a] }).inputs = .transport .bytesAvailable :: [] ∧
      ({ asked (.transport (.transceive [0x00] true)) with answers := [a] }).answers = a :: [] ∧
      (asked (.transport .bytesAvailable)).busy = false := by decide
theorem witness_StepRunsTheDirectFrame_answers :
    isReplyOf [(0x00 : Byte)].length (.reply [0xFF] 1) ∧ ¬ isReplyOf [(0x00 : Byte)].length .err ∧
      ∀ p d, Call.bytesAvailable ≠ .transceive p d := by
  refine ⟨⟨[0xFF], 1, rfl, by decide, rfl⟩, ?_, nofun⟩
  rintro ⟨_, _, _, _, h⟩
  cases h
/-- One state for each frame that the sequencer sends. -/
theorem witness_StepRunsTheFrameOfTheSequencerState :
    (∀ s ∈ [running .waitrdy .ackProbe [], running .pgread .rdProbe [], running .sewen .enableWrites [],
        running .swrite .wrPoll [], running .swrite .wrCleanup []], s.inputs = [] ∧ s.busy = true) ∧
      [running .waitrdy .ackProbe [], running .pgread .rdProbe [], running .sewen .enableWrites [],
        running .swrite .wrPoll [], running .swrite .wrCleanup []].map State.seq =
        [.ackProbe, .rdProbe, .enableWrites, .wrPoll, .wrCleanup] := by decide
theorem witness_StepRunsTheFrameOfTheSequencerState_units :
    (∀ s ∈ [running .swrite .wrCmd [], small (running .ssweepw .wrCmd []), running .sread .rdCmd [],
        running .ssweepr .rdCmd []], s.inputs = [] ∧ s.busy = true) ∧
      (running .swrite .wrCmd []).cmd = 0x11 ∧ (running .sread .rdCmd []).cmd = 0x12 ∧
      (running .ssweepr .rdCmd []).cmd = 0x14 ∧ (small (running .ssweepw .wrCmd [])).cmd = 0x13 ∧
      bufGet .dbuf (small (running .ssweepw .wrCmd [])).dbuf 0 = some 0x61 := by decide
theorem witness_StepRunsTheFrameOfTheSequencerState_buffer :
    (small (running .pgwrite .pgSend [])).inputs = [] ∧ (small (running .pgwrite .pgSend [])).busy = true ∧
      dbufRead (small (running .pgwrite .pgSend [])).dbuf 0 1 = some [0x61] ∧
      ({ small (running .rxframe .responding []) with phase := .reply }).phase = .reply ∧
      dbufRead (small (running .rxframe .responding [])).dbuf 0 2 = some [0x61, 0x7B] := by decide
theorem witness_IdleBlockDoesNothing :
    base.inputs = [] ∧ base.busy = false ∧ (running .sewen .enableWrites []).busy = true ∧
      ({ running .sewen .enableWrites [] with inputs := [.wire .serial [0x00]] }).inputs = .wire .serial [0x00] :: [] ∧
      ({ running .sewen .enableWrites [] with inputs := [.transport .bytesAvailable] }).inputs =
        .transport .bytesAvailable :: [] := by decide
theorem witness_ResetLeavesTheStatedValues :
    (asked .rst).busy = false ∧ (asked .rst).inputs = .rst :: [] := by decide
theorem witness_ResetWhileBusyFollowsTheParameter :
    ({ running .sewen .enableWrites [] with inputs := [.rst] }).busy = true ∧
      ({ running .sewen .enableWrites [] with inputs := [.rst] }).params.resetWhileBusy = .refuse ∧
      ({ running .sewen .enableWrites [] with params.resetWhileBusy := .abandon }).params.resetWhileBusy = .abandon := by
  decide
theorem witness_StepKeepsTheInvariant :
    (running .waitrdy .ackProbe [.count 1]).inv = true ∧ ∃ t, step (running .waitrdy .ackProbe [.count 1]) = .next t := ⟨by decide, _, rfl⟩
theorem witness_SequencerKeepsTheSelectSignal :
    ∀ s, s = { running .swrite .wrPoll [.reply (List.replicate 10 0x00) 10] with outcome := .busyTimeout } →
      s.inv = true ∧ s.selOk = true ∧ s.busy = true ∧ ∃ t, seqStep s = .next t := by
  rintro s rfl
  exact ⟨by decide, by decide, by decide, _, rfl⟩
theorem witness_SequencerKeepsTheSelectSignal_cleanup :
    ∀ s, s = { running .swrite .wrCleanup [.reply [0x00] 1] with att := 1, sel := .asserted } →
      s.inv = true ∧ s.selOk = true ∧ s.busy = true ∧ ∃ t, seqStep s = .next t := by
  rintro s rfl
  exact ⟨by decide, by decide, by decide, _, rfl⟩
theorem witness_SequencerFollowsTheTransitionTable :
    (running .sread .rdCmd [.err]).inv = true ∧ (running .sread .rdCmd [.err]).busy = true ∧
      ∃ t, seqStep (running .sread .rdCmd [.err]) = .next t := ⟨by decide, by decide, _, rfl⟩
theorem witness_RunningCommandIsNeverRefused :
    (running .rxframe .receiving []).inv = true ∧ (running .rxframe .receiving []).busy = true := by decide
theorem witness_OneEventPerStep :
    ∃ t, step (running .sread .rdCmd [.err]) = .next t := ⟨_, rfl⟩
theorem witness_SequencerLeavesTheParametersAlone :
    (running .sread .rdCmd [.reply [0, 0, 0, 0] 4]).busy = true ∧
      ∃ t, seqStep (running .sread .rdCmd [.reply [0, 0, 0, 0] 4]) = .next t := ⟨by decide, _, rfl⟩
theorem witness_HostAccessFrame :
    (asked (.hostWrite 13 0x05)).inputs = .hostWrite 13 0x05 :: [] ∧ (∃ t, step (asked (.hostWrite 13 0x05)) = .next t) ∧
      (∃ t, step (asked (.hostRead 1)) = .next t) ∧ (∃ t, step (asked (.bufRead .xlut 255)) = .next t) ∧
      (∃ t, step (asked (.bufWrite .dbuf 255 0x01)) = .next t) := ⟨rfl, ⟨_, rfl⟩, ⟨_, rfl⟩, ⟨_, rfl⟩, ⟨_, rfl⟩⟩
theorem witness_HostAccessWhileBusyFaults :
    ∀ inp ∈ [Input.hostRead 0, .hostRead 2, .hostWrite 0 0x00, .hostWrite 13 0x05, .bufRead .dbuf 0, .bufWrite .xlut 255 0x00],
      ({ running .sewen .enableWrites [] with inputs := [inp] }).busy = true ∧
      ({ running .sewen .enableWrites [] with inputs := [inp] }).inputs = inp :: [] := by decide
theorem witness_StatusReadIsAlwaysLegal :
    (asked (.hostRead 1)).inputs = .hostRead 1 :: [] := by decide
theorem witness_ParameterRegistersReadBack :
    ∀ nv ∈ [((2 : Nat), (0xFF : Word)), (4, 0xFFFF), (13, 0xFFFFFFFF)],
      ({ base with inputs := [.hostWrite nv.1 nv.2, .hostRead nv.1] }).busy = false ∧ 2 ≤ nv.1 ∧ nv.1 ≤ 13 ∧
      nv.2.toNat < 2 ^ paramWidth nv.1 := by decide
theorem witness_MissingRegistersReadZero :
    ∀ n ∈ [14, 15, 24, 255], (asked (.hostRead n)).busy = false ∧ (n = 14 ∨ n = 15 ∨ (24 ≤ n ∧ n ≤ 255)) ∧
      (asked (.hostRead n)).inputs = .hostRead n :: [] ∧ (asked (.hostWrite n 0x01)).inputs = .hostWrite n 0x01 :: [] := by
  decide
theorem witness_BufferWriteChangesOneElement :
    ∀ i ∈ [0, 255], (asked (.bufWrite .xlut i 0x41)).busy = false ∧ (asked (.bufWrite .xlut i 0x41)).inv = true ∧
      BufSpace.xlut ≠ .unitstat ∧ i < 256 ∧ (asked (.bufWrite .xlut i 0x41)).inputs = .bufWrite .xlut i 0x41 :: [] := by
  decide
theorem witness_UnwrittenReadsAreFree :
    (asked (.bufRead .dbuf 255)).busy = false ∧ bufGet .dbuf (asked (.bufRead .dbuf 255)).dbuf 255 = none ∧
      ({ asked (.hostRead 2) with peerWritten := false }).busy = false ∧
      (asked (.hostRead 20)).inputs = .hostRead 20 :: [] ∧ (asked (.hostRead 20)).lastStatusWritten = false := by decide
theorem witness_UnwrittenBytesAreNotTransmitted :
    (running .pgwrite .pgSend []).inputs = [] ∧ (running .pgwrite .pgSend []).busy = true ∧
      dbufRead (running .pgwrite .pgSend []).dbuf 0 8 = none ∧ (running .ssweepw .wrCmd []).cmd = 0x13 ∧
      bufGet .dbuf (running .ssweepw .wrCmd []).dbuf 0 = none ∧
      ({ running .waitrdy .ackProbe [] with peerWritten := false }).peerWritten = false := by decide
theorem witness_UnwrittenBytesAreNotTransmitted_launch :
    State.reset.busy = false ∧ State.reset.peerWritten = false ∧ State.reset.regs.retryLimit ≠ 0 ∧
      ¬ violates State.reset.regs .pgwrite ∧ State.reset.regs.len ≠ 0 ∧ ¬ violates State.reset.regs .pgread ∧
      base.peerWritten = true ∧ ¬ violates base.regs .pgwrite ∧ dbufRead base.dbuf 0 1 = none ∧
      ¬ violates { base.regs with devSize := 1 } .ssweepw := by
  simp only [violates]; decide
theorem witness_UnwrittenBytesAreNotTransmitted_frames :
    (small (running .pgwrite .pgSend [])).seq = .pgSend ∧ dbufRead (small (running .pgwrite .pgSend [])).dbuf 0 1 = some [0x61] ∧
      ({ small (running .pgwrite .pgSend []) with peerWritten := false }).peerWritten = false ∧
      ({ running .rxframe .responding [] with phase := .reply, latch.rxTarget := 1 }).phase = .reply ∧
      dbufRead (running .rxframe .responding []).dbuf 0 1 = none := by decide
theorem witness_EveryCommandStarts :
    (∀ i ∈ commandList, i ∈ commandList ∧ (small base).busy = false) ∧ launchable (small base) .waitrdy ∧
      launchable (small base) .pgwrite ∧ launchable (small base) .pgread ∧ launchable (small base) .ssweepw ∧
      launchable State.reset .nop ∧ launchable { State.reset with regs.retryLimit := 0 } .waitrdy := by
  simp only [launchable, violates]; decide
theorem witness_CommandIssueWhileBusyFaults :
    Instr.rxframe ∈ commandList ∧ (running .sewen .enableWrites []).busy = true := by decide
theorem witness_ReservedCodeIsProtocolViolation :
    (asked (.hostWrite 0 ((0xFF : Byte).setWidth 32))).busy = false ∧
      (asked (.hostWrite 0 ((0xFF : Byte).setWidth 32))).inputs = .hostWrite 0 ((0xFF : Byte).setWidth 32) :: [] ∧
      (0xFF : Byte) ∉ commandCodes ∧ (0x04 : Byte) ∉ commandCodes := by decide
theorem witness_NopSucceedsAtOnce :
    base.busy = false := by decide
theorem witness_FailedPreconditionIsProtocolViolation :
    base.busy = false ∧ violates { base.regs with pageSize := 0 } .pgwrite ∧ violates { base.regs with len := 12 } .pgwrite ∧
      violates { base.regs with len := 257, pageSize := 1 } .pgwrite ∧ violates { base.regs with len := 0 } .pgread ∧
      violates { base.regs with len := 257 } .pgread ∧ violates { base.regs with saddr := 128 } .swrite ∧
      violates { base.regs with saddr := 128 } .sread ∧ violates { base.regs with devSize := 0 } .ssweepw ∧
      violates { base.regs with devSize := 129 } .ssweepr ∧ violates { base.regs with rxTarget := 0 } .rxframe ∧
      violates { base.regs with rxTarget := 257 } .rxframe := by
  simp only [violates]; decide
theorem witness_LegalCommandsEnterTheirFirstState :
    base.busy = false ∧ base.regs.retryLimit ≠ 0 ∧ base.regs.len ≠ 0 ∧ base.regs.rxPollLimit ≠ 0 ∧
      ¬ violates { base.regs with len := 256 } .pgwrite ∧ ¬ violates { base.regs with len := 256 } .pgread ∧
      ¬ violates { base.regs with saddr := 127 } .swrite ∧ ¬ violates { base.regs with saddr := 127 } .sread ∧
      ¬ violates { base.regs with devSize := 1 } .ssweepw ∧ ¬ violates { base.regs with devSize := 128 } .ssweepr ∧
      ¬ violates { base.regs with rxTarget := 256 } .rxframe ∧ launchable (small base) .waitrdy ∧
      launchable (small base) .pgwrite ∧ launchable (small base) .pgread ∧ launchable (small base) .ssweepw := by
  simp only [violates, launchable]; decide
theorem witness_ZeroLimitsEndAtOnce :
    base.busy = false ∧ ({ base.regs with retryLimit := 0 }).retryLimit = 0 ∧
      ¬ violates { base.regs with len := 0 } .pgwrite ∧ ¬ violates { base.regs with rxPollLimit := 0 } .rxframe := by
  simp only [violates]; decide
theorem witness_ProbeAttemptIsCounted :
    ∀ i ∈ [Instr.waitrdy, .pgwrite], ∀ a ∈ [Answer.count 1, .count 0],
      (running i .ackProbe [a]).seq = .ackProbe ∧ (running i .ackProbe [a]).peerWritten = true ∧
      (running i .ackProbe [a]).answers = a :: [] ∧
      ((running i .ackProbe [a]).cmd = 0x01 ∨ (running i .ackProbe [a]).cmd = 0x02) ∧
      (running .pgread .rdProbe [a]).seq = .rdProbe ∧ (a = .count 1 ∨ a ≠ .count 1) := by decide
theorem witness_PageFrameIsSentOnce :
    (running .pgwrite .pgSend [.count 2]).seq = .pgSend ∧ (running .pgwrite .pgSend [.count 2]).peerWritten = true ∧
      (running .pgwrite .pgSend [.count 2]).answers = .count 2 :: [] ∧ Answer.count 2 = .count ([(0x5C : Byte)].length + 1) ∧
      (running .pgwrite .pgSend [.count 2]).latch.retryLimit ≠ 0 ∧ (running .pgwrite .pgSend [.count 2]).cmd = 0x02 ∧
      ({ running .pgwrite .pgSend [.count 2] with latch.retryLimit := 0 }).latch.retryLimit = 0 ∧
      Answer.err ≠ .count ([(0x5C : Byte)].length + 1) := by decide
theorem witness_WriteEnableFrameEndsTheCommand :
    (∀ n ∈ [0, 2], (running .sewen .enableWrites [.reply [0xFF, 0xFF] n]).seq = .enableWrites ∧
      [(0xFF : Byte), 0xFF].length = 2 ∧ n ≤ 2) ∧ (running .sewen .enableWrites [.err]).answers = .err :: [] := by
  decide
theorem witness_WriteEnableFrameEndsTheCommand_err :
    ∀ k, ¬ isReplyOf k .err ∧ ¬ isReplyOf k (.count 2) := by
  intro k; constructor <;> (rintro ⟨_, _, _, _, h⟩; cases h)
theorem witness_WriteFrameStartsThePoll :
    ∀ i ∈ [Instr.swrite, .ssweepw], ∀ ans ∈ [Answer.reply [0, 0, 0] 3, .reply [0, 0, 0] 2, .err],
      (small (running i .wrCmd [ans])).seq = .wrCmd ∧ (small (running i .wrCmd [ans])).answers = ans :: [] ∧
      ((small (running i .wrCmd [ans])).cmd = 0x11 ∨ (small (running i .wrCmd [ans])).cmd = 0x13) ∧
      (small (running i .wrCmd [ans])).inv = true ∧
      (small (running i .wrCmd [ans])).params.cleanupAfterCmdFailure = false ∧ [(0 : Byte), 0, 0].length = 3 := by
  decide
theorem witness_PollChunkDecidesTheOutcome :
    (∀ n ∈ [0, 9, 10], (running .swrite .wrPoll [.reply (List.replicate 10 0x00) n]).seq = .wrPoll ∧
      (List.replicate 10 (0x00 : Byte)).length = 10 ∧ n ≤ 10) ∧ (running .swrite .wrPoll [.err]).answers = .err :: [] := by
  decide
theorem witness_CleanupEndsTheWrite :
    (running .swrite .wrCleanup [.err]).seq = .wrCleanup ∧ (running .swrite .wrCleanup [.err]).cmd = 0x11 ∧
      (running .swrite .wrCleanup [.err]).answers = .err :: [] ∧ (running .ssweepw .wrCleanup [.err]).cmd = 0x13 ∧
      ({ small (running .ssweepw .wrCleanup [.err]) with idx := 1 }).inv = true := by decide
theorem witness_ReadFrameStoresTheValue :
    ∀ n ∈ [0, 3, 4], (running .sread .rdCmd [.reply [0, 0, 0x7F, 0x80] n]).seq = .rdCmd ∧
      (running .sread .rdCmd [.reply [0, 0, 0x7F, 0x80] n]).cmd = 0x12 ∧ n ≤ 4 ∧
      (running .sread .rdCmd [.err]).answers = .err :: [] ∧
      ({ running .ssweepr .rdCmd [.reply [0, 0, 0x7F, 0x80] n] with idx := 127 }).cmd = 0x14 ∧
      ({ running .ssweepr .rdCmd [.reply [0, 0, 0x7F, 0x80] n] with idx := 127 }).inv = true ∧
      ({ running .ssweepr .rdCmd [.err] with idx := 127 }).inv = true := by decide
theorem witness_ReadReplyIsStored :
    (running .sread .rdCmd []).seq = .rdCmd ∧ (running .sread .rdCmd []).cmd = 0x12 ∧ (running .ssweepr .rdCmd []).cmd = 0x14 ∧
      ({ running .ssweepr .rdCmd [] with idx := 127 }).inv = true ∧ base.seq ≠ .rdCmd := by decide
theorem witness_ReplyFrameIsSentOnce :
    ({ running .rxframe .responding [.count 1] with phase := .reply }).seq = .responding ∧
      ({ running .rxframe .responding [.count 1] with phase := .reply }).phase = .reply ∧
      ({ running .rxframe .responding [.count 1] with phase := .reply }).answers = .count 1 :: [] ∧
      Answer.count 1 = .count [(0x40 : Byte)].length ∧ Answer.count 1 ≠ .count [(0x40 : Byte), 0x41].length := by decide
theorem witness_DirectFrameOnlyRecordsTheCall :
    (∀ n ∈ [0, 10], (scripted [.reply (List.replicate 10 0x00) n]).seq = .idle ∧ Instr.serPoll.format = .serial ∧
      (List.replicate 10 (0x00 : Byte)).length = (encode .serPoll).length ∧ n ≤ (List.replicate 10 (0x00 : Byte)).length) ∧
      (scripted [.err]).answers = .err :: [] ∧ Instr.i2cProbe.format = .i2c ∧ (Instr.i2cPage 0x00 [0x5C]).format = .i2c ∧
      (scripted [.err]).peerWritten = true ∧ State.reset.peerWritten = false ∧ State.reset.seq = .idle := by decide
theorem witness_DirectFrameOnlyRecordsTheCall_out_of_turn :
    ∀ i ∈ [Instr.i2cProbe, .i2cPage 0x00 [0x5C], .serEwen, .serRead 0x2A, .serPoll, .serIdle, .slaveFrame [0x68]],
      (running .swrite .wrCmd []).seq ≠ .idle ∧ i.format ≠ .command ∧ i.format ≠ .serialReply ∧
      ¬ atTurn (running .swrite .wrCmd []) i := by
  intro i hi
  simp only [List.mem_cons, List.not_mem_nil, or_false] at hi
  rcases hi with rfl | rfl | rfl | rfl | rfl | rfl | rfl <;>
    exact ⟨by decide, by decide, by decide, by unfold atTurn; decide⟩
theorem witness_StatusClassification :
    ∀ i ∈ [Instr.waitrdy, .pgwrite], ∀ c ∈ [(0x00 : Byte), 0x01], (running i .ackStatus [.status c]).inputs = [] ∧
      (running i .ackStatus [.status c]).busy = true ∧ (running i .ackStatus [.status c]).seq = .ackStatus ∧
      ((running i .ackStatus [.status c]).cmd = 0x01 ∨ (running i .ackStatus [.status c]).cmd = 0x02) ∧
      (running i .ackStatus [.status c]).peerWritten = true ∧ (classify paramsT0 c = .ack ↔ c = 0x00) := by decide
theorem witness_StatusClassification_err :
    ∀ i ∈ [Instr.waitrdy, .pgwrite, .pgread], ∀ a ∈ [Answer.err, .status 0x00], (running i .ackStatus [a]).inputs = [] ∧
      (running i .ackStatus [a]).busy = true ∧ (running i .ackStatus [a]).seq = .ackStatus ∧
      (running i .ackStatus [a]).peerWritten = true ∧ (running i .ackStatus [a]).answers = a :: [] ∧
      (running .pgread .ackStatus [a]).cmd = 0x03 ∧ (∀ c, Answer.err ≠ .status c) := by decide
theorem witness_WaitrdySucceedsAtTheConfirmingAttempt :
    ∀ s, s = { scripted (attemptScript ([0x01] ++ [0x00]) ++ []) with regs.retryLimit := 2 } →
      s.busy = false ∧ s.inputs = [] ∧ s.peerWritten = true ∧ (∀ x ∈ [(0x01 : Byte)], confirms s.params x = false) ∧
      confirms s.params 0x00 = true ∧ [(0x01 : Byte)].length + 1 ≤ s.regs.retryLimit.toNat ∧
      s.answers = attemptScript ([0x01] ++ [0x00]) ++ [] := by
  rintro s rfl; decide
theorem witness_WaitrdyExhaustsItsLimit :
    ∀ s, s = { scripted (attemptScript ([0x01] ++ [0x04]) ++ []) with regs.retryLimit := 2 } →
      s.busy = false ∧ s.inputs = [] ∧ s.peerWritten = true ∧
      (∀ x ∈ [(0x01 : Byte)] ++ [0x04], confirms s.params x = false) ∧
      [(0x01 : Byte)].length + 1 = s.regs.retryLimit.toNat ∧ s.answers = attemptScript ([0x01] ++ [0x04]) ++ [] := by
  rintro s rfl; decide
theorem witness_PgwriteSendsEveryPageInOrder :
    ∀ s, s = small (scripted (pageScript 1 0x00 2 ++ [])) →
      s.busy = false ∧ s.inputs = [] ∧ s.peerWritten = true ∧ ¬ violates s.regs .pgwrite ∧ s.regs.len ≠ 0 ∧
      s.regs.retryLimit ≠ 0 ∧ confirms s.params 0x00 = true ∧
      dbufRead s.dbuf 0 s.regs.len.toNat = some [0x61, 0x7B] ∧
      s.answers = pageScript s.regs.pageSize.toNat 0x00 s.regs.pageCount ++ [] := by
  rintro s rfl; simp only [violates]; decide
theorem witness_PgwriteAbortsAtAShortPage :
    ∀ s, s = small (scripted (pageScript 1 0x00 1 ++ .count 1 :: [])) →
      s.busy = false ∧ s.inputs = [] ∧ s.peerWritten = true ∧ ¬ violates s.regs .pgwrite ∧ s.regs.retryLimit ≠ 0 ∧
      confirms s.params 0x00 = true ∧ dbufRead s.dbuf 0 s.regs.len.toNat = some [0x61, 0x7B] ∧
      1 < s.regs.pageCount ∧ Answer.count 1 ≠ .count (s.regs.pageSize.toNat + 1) ∧
      s.answers = pageScript s.regs.pageSize.toNat 0x00 1 ++ .count 1 :: [] := by
  rintro s rfl; simp only [violates]; decide
theorem witness_PgreadStoresWhatCame :
    ∀ s, s = small (scripted [.count 1, .bytes [0xDE, 0xAD]]) →
      s.busy = false ∧ s.inputs = [] ∧ s.inv = true ∧ s.peerWritten = true ∧ s.params.pgreadProbeReadsStatus = false ∧
      ¬ violates s.regs .pgread ∧ [(0xDE : Byte), 0xAD].length ≤ s.regs.len.toNat ∧
      s.answers = .count 1 :: .bytes [0xDE, 0xAD] :: [] := by
  rintro s rfl; simp only [violates]; decide
theorem witness_PgreadStoresWhatCame_err :
    (∀ a, a = Answer.err ∨ a = .bytes [0xDE, 0xAD, 0xBE] → ¬ ∃ b, b.length ≤ (small base).regs.len.toNat ∧ a = .bytes b) ∧
      (small (scripted [.count 1, .err])).answers = .count 1 :: .err :: [] := by
  refine ⟨?_, rfl⟩
  rintro a (rfl | rfl) ⟨b, hb, h⟩ <;> cases h
  exact absurd hb (by decide)
theorem witness_SewenIsOneTransceive :
    (scripted [.reply [0xFF, 0xFF] 2]).busy = false ∧ (scripted [.reply [0xFF, 0xFF] 2]).inputs = [] ∧
      (scripted [.reply [0xFF, 0xFF] 2]).answers = .reply [0xFF, 0xFF] 2 :: [] := by decide
theorem witness_SwriteIsDoneAtTheNonzeroChunk :
    ∀ s, s = small (scripted (.reply [0, 0, 0] 3 ::
        (List.replicate 1 stillBusy ++ .reply (List.replicate 10 0x01) 10 :: .reply [0x00] 1 :: []))) →
      s.busy = false ∧ s.inputs = [] ∧ ¬ violates s.regs .swrite ∧ 1 + 1 ≤ s.regs.pollLimit.toNat ∧
      [(0 : Byte), 0, 0].length = 3 ∧ (List.replicate 10 (0x01 : Byte)).length = 10 ∧
      List.replicate 10 (0x01 : Byte) ≠ List.replicate 10 0x00 := by
  rintro s rfl; simp only [violates]; decide
theorem witness_SwriteExhaustsItsLimit :
    ∀ s, s = small (scripted (.reply [0, 0, 0] 3 :: (List.replicate 2 stillBusy ++ .err :: []))) →
      s.busy = false ∧ s.inputs = [] ∧ ¬ violates s.regs .swrite ∧ [(0 : Byte), 0, 0].length = 3 ∧
      s.answers = .reply [0, 0, 0] 3 :: (List.replicate s.regs.pollLimit.toNat stillBusy ++ .err :: []) := by
  rintro s rfl; simp only [violates]; decide
theorem witness_SreadReadsOneByte :
    (scripted [.reply [0, 0, 0xB4, 0x80] 4]).busy = false ∧ (scripted [.reply [0, 0, 0xB4, 0x80] 4]).inputs = [] ∧
      ¬ violates base.regs .sread ∧ (scripted [.reply [0, 0, 0xB4, 0x80] 4]).answers = .reply [0, 0, 0xB4, 0x80] 4 :: [] := by
  simp only [violates]; decide
theorem witness_ReadSweepAttemptsEveryAddress :
    base.busy = false ∧ base.inputs = [] ∧ base.inv = true ∧ ¬ violates base.regs .ssweepr := by
  simp only [violates]; decide
theorem witness_WriteSweepAttemptsEveryAddress :
    (small base).busy = false ∧ (small base).inputs = [] ∧ (small base).inv = true ∧
      ¬ violates (small base).regs .ssweepw ∧
      dbufRead (small base).dbuf 0 (small base).regs.devSize.toNat = some [0x61, 0x7B] := by
  simp only [violates]; decide
theorem witness_RxframeAssemblesTransformsAndReplies :
    ∀ s, s = small (scripted (burstScript [[0x61], [0x7B]] ++ .count 2 :: [])) →
      s.busy = false ∧ s.inputs = [] ∧ s.inv = true ∧ ¬ violates s.regs .rxframe ∧
      (∀ b ∈ [[(0x61 : Byte)], [0x7B]], b ≠ []) ∧ [[(0x61 : Byte)], [0x7B]].flatten.length = s.regs.rxTarget.toNat ∧
      [[(0x61 : Byte)], [0x7B]].length ≤ s.regs.rxPollLimit.toNat ∧
      s.answers = burstScript [[0x61], [0x7B]] ++ .count s.regs.rxTarget.toNat :: [] := by
  rintro s rfl; simp only [violates]; decide
theorem witness_RxframeTimesOut :
    ∀ s, s = small (scripted (List.replicate 2 (.count 0) ++ [])) →
      s.busy = false ∧ s.inputs = [] ∧ ¬ violates s.regs .rxframe ∧
      s.answers = List.replicate s.regs.rxPollLimit.toNat (.count 0) ++ [] := by
  rintro s rfl; simp only [violates]; decide
theorem witness_BurstReadNeverOverruns :
    ∀ s, s = small (running .rxframe .receiving [.count 140, .bytes [0x61, 0x62]]) →
      s.inputs = [] ∧ s.busy = true ∧ s.inv = true ∧ s.seq = .receiving ∧ s.want = 0 ∧ 0 < 140 ∧
      [(0x61 : Byte), 0x62].length ≤ min 140 (s.latch.rxTarget.toNat - s.filled) ∧
      s.answers = .count 140 :: .bytes [0x61, 0x62] :: [] := by
  rintro s rfl; decide
theorem witness_BurstReadNeverOverruns_err :
    ∀ w ∈ [0, 1], ({ small (running .rxframe .receiving [.err]) with want := w }).inputs = [] ∧
      ({ small (running .rxframe .receiving [.err]) with want := w }).busy = true ∧
      ({ small (running .rxframe .receiving [.err]) with want := w }).seq = .receiving ∧
      ({ small (running .rxframe .receiving [.err]) with want := w }).answers = .err :: [] ∧
      (∀ k, Answer.err ≠ .count k) ∧ ¬ ∃ b, b.length ≤ w ∧ Answer.err = .bytes b := by
  intro w hw
  exact ⟨rfl, by decide +revert, rfl, rfl, nofun, fun ⟨_, _, h⟩ => nomatch h⟩
theorem witness_EveryCommandEndsWithinItsCallBound :
    (∀ i ∈ commandList, i ∈ commandList ∧ (small base).busy = false ∧ (small base).inputs = [] ∧ (small base).inv = true) ∧
      launchable (small base) .waitrdy ∧ launchable (small base) .pgwrite ∧ launchable (small base) .pgread ∧
      launchable (small base) .ssweepw ∧ launchable (small base) .rxframe ∧
      (small base).params.pgreadProbeReadsStatus = false ∧ (small base).params.cleanupAfterCmdFailure = false := by
  simp only [launchable, violates]; decide
theorem witness_HostReadsReturnTheContents :
    (∀ nv ∈ registerContents { base with lastStatusWritten := true }, (asked (.hostRead nv.1)).busy = false ∧
      (asked (.hostRead nv.1)).inputs = .hostRead nv.1 :: []) ∧
      (registerContents { base with lastStatusWritten := true }).length = 21 ∧
      bufGet .dbuf (small base).dbuf 1 = some 0x7B ∧ bufGet .unitstat base.unitstat 127 = some 0xFF ∧
      bufGet .xlut base.xlut 255 = some 0xFF ∧ (if BufSpace.unitstat = .unitstat then 128 else 256) ≤ 128 ∧
      (asked (.bufRead .unitstat 128)).inputs = .bufRead .unitstat 128 :: [] ∧
      (if BufSpace.xlut = .unitstat then 128 else 256) ≤ 256 := by
  refine ⟨fun nv _ => ⟨(by decide : base.busy = false), rfl⟩, by decide, by decide, by decide, by decide, by decide, rfl, by decide⟩

end Sys2Proof.Tests
end

section
/-!
PROOFS. The command codes (spec/30_encoding.md R91, R93): the decoder on one byte, the host's write of CMD, and what a
command that ends at its issue leaves behind.
-/

namespace Sys2Proof.Machine

open Sys2Proof

/-! The decoder on a command code. -/

theorem commandCodes_eq_map_code : commandCodes = commandList.map Instr.code := rfl

/-- A command's code decodes to the command (R91). -/
theorem decode_code_of_mem_commandList {i : Instr} (hi : i ∈ commandList) : decode .command [i.code] = .ok i := by
  revert i
  simp only [commandList, List.forall_mem_cons]
  exact ⟨rfl, rfl, rfl, rfl, rfl, rfl, rfl, rfl, rfl, rfl, nofun⟩

/-- A code that is no command's is reserved: each of the decoder's named rows is one of the ten codes (R93). -/
theorem decode_command_of_not_mem {c : Byte} (hc : c ∉ commandCodes) :
    decode .command [c] = .error (.reservedCommand c) := by
  change decodeCommand c = _
  unfold decodeCommand
  split
  case h_11 => rfl
  all_goals exact absurd (by decide) hc

/-! The host's write of CMD. -/

/-- A step that takes a host write of register 0 is the write of CMD, with the code in the low byte (R23). -/
theorem step_of_write_cmd {s : State} {v : Word} {rest : List Input} (hi : s.inputs = .hostWrite 0 v :: rest) :
    step s = commandWrite (v.setWidth 8) { s with inputs := rest } := by
  simp only [step, turn, hi, hostAct, if_true]

/-- While BUSY = 0 a reserved code starts as a command and ends at once (R93). -/
theorem commandWrite_of_not_mem {s : State} {c : Byte} (hb : s.busy = false) (hc : c ∉ commandCodes) :
    commandWrite c s = .next ((s.start c).finish .protocolViolation) := by
  simp only [commandWrite, decode_command_of_not_mem hc]
  exact issue_of_idle hb

/-! A command that ends at its issue. -/

/-- The results of a command that ends as it starts: all 0 but RESULT, SUCCEEDED and the bits of LAST_STATUS (R26, R238). -/
theorem res_of_finish_start (s : State) (code : Byte) (k : Kind) :
    ((s.start code).finish k).res =
      resultsOf k 0 0 0 s.res.lastStatus (if k = .success then 0x01 else 0x00) 0 0 := by
  have hflags : ∀ k : Kind, flagsAtEnd 0 k = if k = .success then 0x01 else 0x00 := by
    intro k; cases k <;> rfl
  rw [finish_res, ← hflags]
  rfl

/-- Beside the results such a command changes only STATUS and SEQ of what its start leaves (R318). -/
theorem finish_start_eq (s : State) (code : Byte) (k : Kind) :
    (s.start code).finish k = { s.start code with
      status := 0x02
      seq := .idle
      res := resultsOf k 0 0 0 s.res.lastStatus (if k = .success then 0x01 else 0x00) 0 0 } := by
  rw [← res_of_finish_start s code k]
  rfl

/-- Settles O29: the decoder's ten rows are the ten codes, and the write of any other code is a start followed by an end
with ProtocolViolation. -/
theorem reservedCodeIsProtocolViolation : Obligations.ReservedCodeIsProtocolViolation := by
  refine ⟨rfl, by decide, ?_, fun c hc => decode_command_of_not_mem hc, ?_⟩
  · intro c hc
    rw [commandCodes_eq_map_code, List.mem_map] at hc
    obtain ⟨i, hi, rfl⟩ := hc
    exact ⟨i, hi, decode_code_of_mem_commandList hi⟩
  · intro s c rest hb hi hc
    have hcode : (c.setWidth 32).setWidth 8 = c := by simp
    have hb' : ({ s with inputs := rest } : State).busy = false := hb
    rw [step_of_write_cmd hi, hcode, commandWrite_of_not_mem hb' hc, finish_start_eq]
    rfl

end Sys2Proof.Machine
end

section
/-!
PROOFS. The PagedWriter (spec/41_pagedwriter.md): how a run unfolds into its steps, what a scripted answer leaves behind,
and PGREAD from its issue over the probe to the one bulk read (R158 to R161).
-/

namespace Sys2Proof.Machine

open Sys2Proof

/-! Runs and scripted answers. -/

/-- A run of any machine goes on from where its first step arrives. -/
theorem coreRun_succ_of_step {M : Host.Core} {s t : M.State} {n : Nat} (h : M.step s = .next t) :
    M.run (n + 1) s = M.run n t := by
  rw [Host.Core.run, h]

theorem runFor_succ_of_step {s t : State} {n : Nat} (h : step s = .next t) : runFor (n + 1) s = runFor n t :=
  coreRun_succ_of_step (M := Sys2Proof.core) h

/-- A call that the script answers takes the answer off the script and puts the event into the history (R36). -/
theorem afterCall_cons {s : State} {a : Answer} {rest : List Answer} {c : Call} (h : s.answers = a :: rest) :
    s.afterCall c = { s with
      answers := rest, hist := s.hist ++ [.call c a], sel := selAfter c (s.answer c) s.sel } := by
  simp [State.afterCall, rawAnswer_cons h, h]

/-- The answers of a bulk read's shape are the byte strings of at most the length asked for (R72). -/
theorem shapeOk_read_iff {peer : Byte} {n : Nat} {a : Answer} :
    shapeOk (.read peer n) a = true ↔ ∃ b, b.length ≤ n ∧ a = .bytes b := by
  cases a <;> simp [shapeOk]

/-! PGREAD, move by move. -/

/-- What PGREAD checks is that its registers show no violation (R158, R233). -/
theorem pgreadLegal_of_not_violates {r : ParamRegs} (h : ¬ violates r .pgread) : r.pgreadLegal = true := by
  obtain ⟨hne, hle⟩ := not_or.1 h
  have hpos : r.len.toNat ≠ 0 := fun h0 => hne (BitVec.eq_of_toNat_eq h0)
  exact (pgreadLegal_iff r).2 ⟨by omega, by omega⟩

/-- A legal PGREAD with a written PEER starts and stands at its probe (R159). -/
theorem exec_pgread_of_legal {s : State} (hb : s.busy = false) (hp : s.peerWritten = true)
    (hv : ¬ violates s.regs .pgread) : exec .pgread s = .next { s.start 0x03 with seq := .rdProbe } := by
  have hlegal := pgreadLegal_of_not_violates hv
  have hlaunch : s.launchFault true 0 = none := launchFault_none.2 ⟨fun _ => hp, rfl⟩
  change execPgread s = _
  rw [execPgread, if_pos hlegal, hlaunch, issue_of_idle hb, checked_eq, start_latch, if_pos hlegal]
  rfl

/-- An acknowledged probe of PGREAD leads to the bulk read at once when the probe reads no status (R160, U4). -/
theorem step_rdProbe_acknowledged {s : State} {rest : List Answer} (hi : s.inputs = []) (hb : s.busy = true)
    (hq : s.seq = .rdProbe) (hp : s.peerWritten = true) (hu : s.params.pgreadProbeReadsStatus = false)
    (ha : s.answers = .count 1 :: rest) :
    step s = .next { s with
      seq := .rdBulk, answers := rest, hist := s.hist ++ [probeEvent s.latch.peer (.count 1)] } := by
  have hanswer : s.answer (.write s.latch.peer (encode .i2cProbe)) = .count 1 := answer_cons ha rfl
  have hstep : step s = execI2cProbe s := by
    rw [step_busy hi hb]
    simp only [seqStep, State.nextMove, hq]
    rfl
  rw [hstep, execI2cProbe, handI2c_next]
  refine .inl ⟨by simp [hq], hp, ?_⟩
  rw [hanswer, afterCall_cons ha, State.probeAnswered, if_pos hq, State.rdProbed, if_pos rfl, hu]
  rfl

/-- The bulk read is one call for `LEN` bytes, and `bulkAnswered` says how it goes on (R97, R159). -/
theorem step_rdBulk {s : State} {a : Answer} {rest : List Answer} (hi : s.inputs = []) (hb : s.busy = true)
    (hq : s.seq = .rdBulk) (hp : s.peerWritten = true) (ha : s.answers = a :: rest) :
    step s = .next (State.bulkAnswered (s.answer (.read s.latch.peer s.latch.len.toNat)) { s with
      answers := rest, hist := s.hist ++ [.call (.read s.latch.peer s.latch.len.toNat) a] }) := by
  have hstep : step s = readBulk s := by
    rw [step_busy hi hb]
    simp only [seqStep, State.nextMove, hq]
  rw [hstep, readBulk, withPeer_of_written hp, afterCall_cons ha]
  rfl

/-- The state of a command that has just started is busy (R23). -/
theorem start_busy (s : State) (code : Byte) : (s.start code).busy = true := by
  simp [State.busy, statusBusy]

/-- PGREAD of a legal length with its probe acknowledged: the issue, the probe, and the one bulk read; an answer outside the
read's shape counts as `Err` (R76, R159, R160). -/
theorem pgread_run {s : State} {a : Answer} {rest : List Answer} (hb : s.busy = false) (hi : s.inputs = [])
    (hp : s.peerWritten = true) (hu : s.params.pgreadProbeReadsStatus = false) (hv : ¬ violates s.regs .pgread)
    (ha : s.answers = .count 1 :: a :: rest) :
    ∃ t : State, exec .pgread s = .next t ∧ runFor 2 t = .next (State.bulkAnswered
      (if shapeOk (.read s.regs.peer s.regs.len.toNat) a then a else .err) { s.start 0x03 with
        seq := .rdBulk
        answers := rest
        hist := s.hist ++ [probeEvent s.regs.peer (.count 1), .call (.read s.regs.peer s.regs.len.toNat) a] }) := by
  have hbusy := start_busy s 0x03
  have hprobe := step_rdProbe_acknowledged (s := { s.start 0x03 with seq := .rdProbe }) hi hbusy rfl hp hu ha
  have hbulk := step_rdBulk (s := { s.start 0x03 with
    seq := .rdBulk
    answers := a :: rest
    hist := s.hist ++ [probeEvent s.regs.peer (.count 1)] }) hi hbusy rfl hp rfl
  rw [List.append_assoc] at hbulk
  exact ⟨_, exec_pgread_of_legal hb hp hv, (runFor_succ_of_step hprobe).trans (runFor_succ_of_step hbulk)⟩

/-! What a bulk read leaves. -/

/-- Bytes that came are stored from index 0 and counted, and only the full length is a success (R159, R161). -/
theorem bulkAnswered_bytes (s : State) (b : List Byte) :
    State.bulkAnswered (.bytes b) s =
      State.finish { s with dbuf := dbufWrite s.dbuf 0 b, res.xfer := BitVec.ofNat 16 b.length }
        (if b.length = s.latch.len.toNat then .success else .transportError) := rfl

/-- `Err` ends the command with nothing stored and nothing counted (R161). -/
theorem bulkAnswered_err (s : State) : State.bulkAnswered .err s = s.finish .transportError := rfl

/-- DBUF after bytes were stored from index 0: they stand below their number, every other byte is as before. -/
theorem bufGet_dbufWrite_zero (m : Memory) (b : List Byte) (i : Nat) :
    bufGet .dbuf (dbufWrite m 0 b) i = if i < b.length then b[i]? else bufGet .dbuf m i := by
  simp [memLookup_dbufWrite]

/-- The results of a command that ends with nothing but XFER counted since its start (R26, R161). -/
theorem res_of_finish_start_xfer (s : State) (code : Byte) (k : Kind) (n : Half) :
    { ((s.start code).finish k).res with xfer := n } =
      resultsOf k 0 0 0 s.res.lastStatus (if k = .success then 0x01 else 0x00) 0 n := by
  rw [res_of_finish_start]
  rfl

/-- Settles O49: the issue, the probe and the bulk read of PGREAD, then the two ways the read can answer. -/
theorem pgreadStoresWhatCame : Obligations.PgreadStoresWhatCame := by
  constructor
  · intro s a rest hb hi hp hu hv hbad ha
    obtain ⟨t, ht, hrun⟩ := pgread_run hb hi hp hu hv ha
    rw [if_neg (shapeOk_read_iff.not.2 hbad), bulkAnswered_err] at hrun
    have hres := res_of_finish_start s 0x03 .transportError
    rw [if_neg (by decide)] at hres
    refine ⟨t, ht, hrun.trans ?_⟩
    rw [← hres]
    rfl
  · intro s b rest hb hi _ hp hu hv hlen ha
    obtain ⟨t, ht, hrun⟩ := pgread_run hb hi hp hu hv ha
    rw [if_pos (shapeOk_read_iff.2 ⟨b, hlen, rfl⟩), bulkAnswered_bytes] at hrun
    refine ⟨t, _, ht, hrun, rfl, rfl, rfl, rfl, rfl, ?results, ?stored, ?kept, rfl⟩
    case results =>
      refine (res_of_finish_start_xfer s 0x03 _ _).trans ?_
      by_cases hfull : b.length = s.regs.len.toNat <;> simp [hfull]
    case stored => exact fun i hlt => (bufGet_dbufWrite_zero s.dbuf b i).trans (if_pos hlt)
    case kept => exact fun i hge => (bufGet_dbufWrite_zero s.dbuf b i).trans (if_neg (by omega))

end Sys2Proof.Machine
end

section
/-!
PROOFS. The cleanup of WriteByte (spec/42_serial_eeprom.md R177, R178): when a transceive counts as complete, which kind the
unit ends with, and how that kind reaches a SWRITE and a unit of a sweep.
-/

namespace Sys2Proof.Machine

open Sys2Proof

/-- The bit SUCCEEDED of a command that has ended says whether its kind is Success (R29, R238). -/
theorem finish_succeeded (s : State) (k : Kind) : (s.finish k).succeeded = decide (k = .success) := by
  simp only [State.succeeded, finish_res, flagsAtEnd]
  cases k <;> simp

/-- Under the machine's invariant the log of a sweep is canonical (R84). -/
theorem wf_unitstat_of_inv {s : State} (h : s.inv = true) : Memory.wf .unitstat s.unitstat = true := by
  simp only [State.inv, State.buffersOk, Bool.and_eq_true] at h
  obtain ⟨⟨⟨_, ⟨_, hunit⟩, _⟩, _⟩, _⟩ := h
  exact hunit

/-- A scripted answer completes a transceive exactly when it is a reply that counts and carries as many bytes as were sent
(R73, R76). -/
theorem fullReply_answer_transceive {s : State} {a : Answer} {rest : List Answer} {p r : List Byte} {d : Bool}
    (h : s.answers = a :: rest) :
    fullReply p.length (s.answer (.transceive p d)) = some r ↔ r.length = p.length ∧ a = .reply r p.length := by
  cases hs : shapeOk (.transceive p d) a with
  | true =>
    rw [answer_cons h hs]
    cases a with
    | reply b n =>
      obtain ⟨-, hb⟩ : n ≤ p.length ∧ b.length = p.length := by simpa [shapeOk] using hs
      by_cases hn : n = p.length
      · have hlen : b = r → r.length = p.length := fun e => e ▸ hb
        simpa [fullReply, hn] using hlen
      · simp [fullReply, hn]
    | _ => simp [fullReply]
  | false =>
    rw [answer_cons_misshapen h hs]
    refine iff_of_false nofun ?_
    rintro ⟨hr, rfl⟩
    simp [shapeOk, hr] at hs

/-- The cleanup fails on every scripted answer but one byte counted as 1 (R105, R178). -/
theorem cleanup_fails_iff {s : State} {a : Answer} {rest : List Answer} (h : s.answers = a :: rest) :
    (fullReply 1 (s.answer (.transceive [0x00] true))).isNone = true ↔ ¬ ∃ b, a = .reply [b] 1 := by
  have hfull := fun r => fullReply_answer_transceive (p := [0x00]) (r := r) (d := true) h
  simp only [List.length_singleton] at hfull
  rw [Option.isNone_iff_eq_none, Option.eq_none_iff_forall_ne_some, ← not_exists]
  refine not_congr ⟨?_, ?_⟩
  · rintro ⟨r, hr⟩
    obtain ⟨hlen, rfl⟩ := (hfull r).1 hr
    obtain ⟨b, rfl⟩ := List.length_eq_one_iff.1 hlen
    exact ⟨b, rfl⟩
  · rintro ⟨b, hb⟩
    exact ⟨[b], (hfull [b]).2 ⟨rfl, hb⟩⟩

/-- At WrCleanup the frame is one zero byte, and the unit ends with the poll's failure, or else with the cleanup's (R178). -/
theorem exec_serIdle_at_cleanup {s : State} {a : Answer} {rest : List Answer} (hq : s.seq = .wrCleanup)
    (ha : s.answers = a :: rest) :
    exec .serIdle s = .next ((s.afterCall (.transceive [0x00] true)).writeEnd
      (if s.outcome = .success ∧ ¬ (∃ b, a = .reply [b] 1) then .transportError else s.outcome)) := by
  have hturn : exec .serIdle s = .next (State.cleanupAnswered (s.answer (.transceive [0x00] true))
      (s.afterCall (.transceive [0x00] true))) := handFrame_turn (decide_eq_true hq)
  rw [hturn, State.cleanupAnswered, afterCall_outcome]
  simp only [cleanup_fails_iff ha, and_comm]

/-- WriteByte returns to SWRITE: ATTEMPTS, and the command's end (R174). -/
theorem writeEnd_of_single {s : State} (h : s.cmd ≠ 0x13) (k : Kind) :
    s.writeEnd k = State.finish { s with res.attempts := BitVec.ofNat 32 s.att } k :=
  if_neg ((inSweepWrite_iff s).not.2 h)

/-- WriteByte returns to the write sweep: ATTEMPTS, and the unit's end (R187). -/
theorem writeEnd_of_sweep {s : State} (h : s.cmd = 0x13) (k : Kind) :
    s.writeEnd k = State.unitEnd { s with res.attempts := BitVec.ofNat 32 s.att } k :=
  if_pos ((inSweepWrite_iff s).2 h)

/-- In the write sweep the end of a WriteByte writes the log entry of the unit's own address and no other (R187). -/
theorem writeEnd_of_sweep_effect {s : State} (h : s.cmd = 0x13) (hwf : Memory.wf .unitstat s.unitstat = true) (k : Kind) :
    (∀ j, bufGet .unitstat (s.writeEnd k).unitstat j =
      if j = s.idx then some k.code else bufGet .unitstat s.unitstat j) ∧
    (s.writeEnd k).res.xfer = BitVec.ofNat 16 (s.idx + 1) ∧ (s.writeEnd k).res.attempts = BitVec.ofNat 32 s.att ∧
    (s.writeEnd k).regs = s.regs ∧ (s.writeEnd k).dbuf = s.dbuf := by
  rw [writeEnd_of_sweep h]
  obtain ⟨hunit, hxfer, hattempts, hregs, hdbuf, -⟩ :=
    unitEnd_effect { s with res.attempts := BitVec.ofNat 32 s.att } k
  refine ⟨fun j => ?_, hxfer, hattempts, hregs, hdbuf⟩
  rw [hunit]
  exact bufGet_bufPut .unitstat s.unitstat s.idx j k.code hwf

/-- Settles O39: the cleanup's frame hands the unit's kind to `writeEnd`, which ends a SWRITE and logs a unit of a sweep. -/
theorem cleanupEndsTheWrite : Obligations.CleanupEndsTheWrite := by
  intro s a rest hq ha k hk
  have hexec := exec_serIdle_at_cleanup hq ha
  rw [← hk] at hexec
  have hsame := writeEnd_same (s.afterCall (.transceive [0x00] true)) k
  have hhist : (s.afterCall (.transceive [0x00] true)).hist = s.hist ++ [cleanupEvent a] := by
    rw [afterCall_hist, rawAnswer_cons ha, cleanupEvent]
  have hsel : (s.afterCall (.transceive [0x00] true)).sel = .deasserted ∨
      (s.afterCall (.transceive [0x00] true)).sel = .unknown := (selAfter_transceive _ _ _ _).symm
  rw [← hsame.hist] at hhist
  rw [← hsame.sel] at hsel
  constructor
  · intro hcmd
    have hne : (s.afterCall (.transceive [0x00] true)).cmd ≠ 0x13 := by rw [afterCall_cmd, hcmd]; decide
    rw [writeEnd_of_single hne] at hexec hhist hsel
    exact ⟨_, hexec, rfl, rfl, hhist, rfl, finish_succeeded _ k, rfl, rfl, rfl, rfl, hsel⟩
  · intro hcmd hinv
    obtain ⟨hlog, hxfer, hattempts, hregs, hdbuf⟩ := writeEnd_of_sweep_effect
      (s := s.afterCall (.transceive [0x00] true)) hcmd (wf_unitstat_of_inv hinv) k
    exact ⟨_, hexec, hhist, (hlog s.idx).trans (if_pos rfl), fun j hj => (hlog j).trans (if_neg hj),
      hxfer, hattempts, hregs, hdbuf, hsel⟩

end Sys2Proof.Machine
end

section
/-!
PROOFS. The reception of RXFRAME (spec/43_slave_frame.md R212 to R219): the moves at RECEIVING under a scripted answer, what
the next poll and a burst leave, and the early end on `Err`.
-/

namespace Sys2Proof.Machine

open Sys2Proof

/-! What the two calls of a reception can be answered (R75, R76). -/

/-- The answers of a poll's shape are the counts. -/
theorem shapeOk_bytesAvailable_iff {a : Answer} : shapeOk .bytesAvailable a = true ↔ ∃ k, a = .count k := by
  cases a <;> simp [shapeOk]

/-- The answers of a burst read's shape are the byte strings of at most the length asked for. -/
theorem shapeOk_slaveRead_iff {n : Nat} {a : Answer} :
    shapeOk (.slaveRead n) a = true ↔ ∃ b, b.length ≤ n ∧ a = .bytes b := by
  cases a <;> simp [shapeOk]

/-! The two moves at RECEIVING. -/

/-- With no burst announced the move is one poll, and `rxPolled` says how it goes on (R213). -/
theorem step_receiving_poll {s : State} {a : Answer} {rest : List Answer} (hi : s.inputs = []) (hb : s.busy = true)
    (hq : s.seq = .receiving) (hw : s.want = 0) (ha : s.answers = a :: rest) :
    step s = .next (State.rxPolled (s.answer .bytesAvailable) { s with
      answers := rest, hist := s.hist ++ [.call .bytesAvailable a] }) := by
  have hstep : step s = pollBacklog s := by
    rw [step_busy hi hb]
    simp only [seqStep, State.nextMove, hq, hw, if_true]
  rw [hstep, pollBacklog, afterCall_cons ha]
  rfl

/-- With a burst announced the move is one read of its length, and `rxRead` says how it goes on (R214). -/
theorem step_receiving_read {s : State} {a : Answer} {rest : List Answer} (hi : s.inputs = []) (hb : s.busy = true)
    (hq : s.seq = .receiving) (hw : s.want ≠ 0) (ha : s.answers = a :: rest) :
    step s = .next (State.rxRead (s.answer (.slaveRead s.want)) { s with
      answers := rest, hist := s.hist ++ [.call (.slaveRead s.want) a] }) := by
  have hstep : step s = readBurst s := by
    rw [step_busy hi hb]
    simp only [seqStep, State.nextMove, hq, hw, if_false]
  rw [hstep, readBurst, afterCall_cons ha]
  rfl

/-! What an answer leaves. -/

/-- A poll that reports bytes announces a burst of what the frame lacks at most (R214). -/
theorem rxPolled_count_pos (s : State) {k : Nat} (hk : 0 < k) :
    State.rxPolled (.count k) s =
      { s with att := s.att + 1, want := min k (s.latch.rxTarget.toNat - s.filled) } :=
  if_neg (Nat.ne_of_gt hk)

/-- `Err` to a poll ends the command, the poll counted (R219). -/
theorem rxPolled_err (s : State) :
    State.rxPolled .err s = (State.rxResults { s with att := s.att + 1 }).finish .transportError := rfl

/-- `Err` to a burst read ends the command with nothing stored (R219). -/
theorem rxRead_err (s : State) : State.rxRead .err s = s.rxResults.finish .transportError := rfl

/-- The end of a reception with TransportError: ATTEMPTS the polls, XFER the bytes that had come (R212, R219). -/
theorem rxResults_finish_transportError (s : State) :
    s.rxResults.finish .transportError = { s with
      seq := .idle
      status := 0x02
      res := { s.res with
        result := 1, attempts := BitVec.ofNat 32 s.att, xfer := BitVec.ofNat 16 s.filled
        flags := s.res.flags &&& 0x02 } } := by
  have hflags : flagsAtEnd s.res.flags .transportError = s.res.flags &&& 0x02 := by simp [flagsAtEnd]
  rw [← hflags]
  rfl

/-- An incomplete frame is polled for again while the bound allows a poll, and else the command ends with BusyTimeout (R213,
R217). -/
theorem rxPollAgain_seq (s : State) :
    (s.att < s.latch.rxPollLimit.toNat → s.rxPollAgain.seq = .receiving) ∧
      (s.latch.rxPollLimit.toNat ≤ s.att → s.rxPollAgain.seq = .idle ∧ s.rxPollAgain.res.result = 2) := by
  constructor
  · intro hlt
    rw [State.rxPollAgain, if_pos hlt]
  · intro hle
    rw [State.rxPollAgain, if_neg (Nat.not_lt.2 hle)]
    exact ⟨rfl, rfl⟩

/-- What the way on of an incomplete frame keeps of the reception. -/
theorem rxPollAgain_frame (s : State) (hw : s.want = 0) :
    s.rxPollAgain.filled = s.filled ∧ s.rxPollAgain.dbuf = s.dbuf ∧ s.rxPollAgain.att = s.att ∧
      s.rxPollAgain.want = 0 := by
  unfold State.rxPollAgain
  split_ifs
  · exact ⟨rfl, rfl, rfl, rfl⟩
  · exact ⟨rfl, rfl, rfl, hw⟩

/-- The bytes of a burst, stored at the tail of the frame and counted (R214). -/
def State.burstStored (s : State) (b : List Byte) : State :=
  { s with dbuf := dbufWrite s.dbuf s.filled b, filled := s.filled + b.length, want := 0 }

/-- Bytes that leave the frame incomplete are stored, and the next poll follows if there is one (R214, R215). -/
theorem rxRead_bytes_of_lt {s : State} {b : List Byte} (h : s.filled + b.length < s.latch.rxTarget.toNat) :
    State.rxRead (.bytes b) s = (s.burstStored b).rxPollAgain := if_pos h

/-- Bytes that complete the frame are stored, and no poll follows (R215). -/
theorem rxRead_bytes_of_le {s : State} {b : List Byte} (h : s.latch.rxTarget.toNat ≤ s.filled + b.length) :
    State.rxRead (.bytes b) s = { (s.burstStored b).rxResults with seq := .complete } := if_neg (Nat.not_lt.2 h)

/-- A burst read that is answered stores and counts what came, whether or not it completes the frame (R214). -/
theorem rxRead_bytes_stored (s : State) (b : List Byte) :
    (State.rxRead (.bytes b) s).filled = s.filled + b.length ∧
      (State.rxRead (.bytes b) s).dbuf = dbufWrite s.dbuf s.filled b ∧
      (State.rxRead (.bytes b) s).att = s.att ∧ (State.rxRead (.bytes b) s).want = 0 := by
  rcases Nat.lt_or_ge (s.filled + b.length) s.latch.rxTarget.toNat with hlt | hge
  · rw [rxRead_bytes_of_lt hlt]
    exact rxPollAgain_frame (s.burstStored b) rfl
  · rw [rxRead_bytes_of_le hge]
    exact ⟨rfl, rfl, rfl, rfl⟩

/-- Where the block goes from an answered burst read: to the transform, the next poll, or the timeout (R213, R215, R217). -/
theorem rxRead_bytes_next (s : State) (b : List Byte) :
    (s.latch.rxTarget.toNat ≤ s.filled + b.length → (State.rxRead (.bytes b) s).seq = .complete) ∧
      (s.filled + b.length < s.latch.rxTarget.toNat → s.att < s.latch.rxPollLimit.toNat →
        (State.rxRead (.bytes b) s).seq = .receiving) ∧
      (s.filled + b.length < s.latch.rxTarget.toNat → s.latch.rxPollLimit.toNat ≤ s.att →
        (State.rxRead (.bytes b) s).seq = .idle ∧ (State.rxRead (.bytes b) s).res.result = 2) := by
  obtain ⟨hagain, htimeout⟩ := rxPollAgain_seq (s.burstStored b)
  refine ⟨fun hge => ?_, fun hlt hatt => ?_, fun hlt hatt => ?_⟩
  · rw [rxRead_bytes_of_le hge]
  · rw [rxRead_bytes_of_lt hlt]
    exact hagain hatt
  · rw [rxRead_bytes_of_lt hlt]
    exact htimeout hatt

/-! A burst: the poll that announces it and the read that fetches it. -/

/-- Under the machine's invariant a frame that is being received lacks bytes (R215). -/
theorem filled_lt_rxTarget_of_inv {s : State} (h : s.inv = true) (hq : s.seq = .receiving) :
    s.filled < s.latch.rxTarget.toNat := by
  simp only [State.inv, State.seqOk, hq, Bool.and_eq_true, decide_eq_true_eq] at h
  obtain ⟨_, ⟨⟨_, hfilled⟩, _⟩, _⟩ := h
  exact hfilled

/-- The state that takes the answer of a burst: one poll more, the burst announced, both calls in the history (R36, R214). -/
def State.burstCalled (s : State) (k : Nat) (b : List Byte) (rest : List Answer) : State :=
  { s with
    att := s.att + 1
    want := min k (s.latch.rxTarget.toNat - s.filled)
    answers := rest
    hist := s.hist ++ [.call .bytesAvailable (.count k),
      .call (.slaveRead (min k (s.latch.rxTarget.toNat - s.filled))) (.bytes b)] }

/-- A poll that reports bytes, and the one read of the burst that it announces: `min(k, target - filled)` bytes are asked
for, which is at least 1 (R214). -/
theorem burst_run {s : State} {k : Nat} {b : List Byte} {rest : List Answer} (hi : s.inputs = []) (hb : s.busy = true)
    (hq : s.seq = .receiving) (hw : s.want = 0) (hk : 0 < k) (hwant : 1 ≤ min k (s.latch.rxTarget.toNat - s.filled))
    (hlen : b.length ≤ min k (s.latch.rxTarget.toNat - s.filled)) (ha : s.answers = .count k :: .bytes b :: rest) :
    runFor 2 s = .next (State.rxRead (.bytes b) (s.burstCalled k b rest)) := by
  have hpoll := step_receiving_poll hi hb hq hw ha
  rw [answer_cons ha (shapeOk_bytesAvailable_iff.2 ⟨k, rfl⟩), rxPolled_count_pos _ hk] at hpoll
  have hread := step_receiving_read (s := { s with
    att := s.att + 1
    want := min k (s.latch.rxTarget.toNat - s.filled)
    answers := .bytes b :: rest
    hist := s.hist ++ [.call .bytesAvailable (.count k)] }) hi hb hq (Nat.ne_of_gt hwant) rfl
  rw [answer_cons rfl (shapeOk_slaveRead_iff.2 ⟨b, hlen, rfl⟩), List.append_assoc] at hread
  exact (runFor_succ_of_step hpoll).trans (runFor_succ_of_step hread)

/-- DBUF after a burst was stored at `n`: the bytes stand there in order. -/
theorem bufGet_dbufWrite_add (m : Memory) (n : Nat) (b : List Byte) {j : Nat} (hj : j < b.length) :
    bufGet .dbuf (dbufWrite m n b) (n + j) = b[j]? := by
  rw [bufGet_dbuf, memLookup_dbufWrite, if_pos ⟨by omega, by omega⟩, Nat.add_sub_cancel_left]

/-- Bytes outside a stored burst are as before. -/
theorem bufGet_dbufWrite_outside (m : Memory) (n : Nat) (b : List Byte) {i : Nat} (hi : i < n ∨ n + b.length ≤ i) :
    bufGet .dbuf (dbufWrite m n b) i = bufGet .dbuf m i := by
  rw [bufGet_dbuf, bufGet_dbuf, memLookup_dbufWrite, if_neg (by omega)]

/-- Settles O58: an answer outside a call's contract counts as `Err` and ends the command; a poll that reports bytes is
followed by the read of a burst, and that by the transform, the next poll or the timeout. -/
theorem burstReadNeverOverruns : Obligations.BurstReadNeverOverruns := by
  refine ⟨fun s a rest hi hb hq ha => ⟨?badPoll, ?badRead⟩, ?burst⟩
  case badPoll =>
    intro hw hbad
    have herr : s.answer .bytesAvailable = .err := answer_cons_misshapen ha
      (Bool.eq_false_iff.2 (shapeOk_bytesAvailable_iff.not.2 (not_exists.2 hbad)))
    rw [step_receiving_poll hi hb hq hw ha, herr, rxPolled_err, rxResults_finish_transportError]
  case badRead =>
    intro hw hbad
    have herr : s.answer (.slaveRead s.want) = .err := answer_cons_misshapen ha
      (Bool.eq_false_iff.2 (shapeOk_slaveRead_iff.not.2 hbad))
    rw [step_receiving_read hi hb hq hw ha, herr, rxRead_err, rxResults_finish_transportError]
  case burst =>
    intro s k b rest hi hb hinv hq hw hk hlen ha
    have hlack := filled_lt_rxTarget_of_inv hinv hq
    have hwant : 1 ≤ min k (s.latch.rxTarget.toNat - s.filled) := by omega
    obtain ⟨hfilled, hdbuf, hatt, hcleared⟩ := rxRead_bytes_stored (s.burstCalled k b rest) b
    obtain ⟨hcomplete, hagain, htimeout⟩ := rxRead_bytes_next (s.burstCalled k b rest) b
    have hsame := rxRead_same (.bytes b) (s.burstCalled k b rest)
    change _ = s.filled + b.length at hfilled
    refine ⟨hwant, _, burst_run hi hb hq hw hk hwant hlen ha, hfilled, by omega, hsame.hist, hatt, hcleared,
      hsame.answers, ?_, ?_, ?_, fun j hj => ?_, fun i hout => ?_⟩
    · exact fun hfull => hcomplete (hfull.symm.trans hfilled).le
    · exact fun hlt => hagain (hfilled ▸ hlt)
    · exact fun hlt => htimeout (hfilled ▸ hlt)
    · rw [hdbuf]
      exact bufGet_dbufWrite_add s.dbuf s.filled b hj
    · rw [hdbuf]
      exact bufGet_dbufWrite_outside s.dbuf s.filled b hout

end Sys2Proof.Machine
end

section
/-!
PROOFS. The encodings (spec/30_encoding.md R90 to R107): the ten commands, the bits of the serial frames and of the
read reply, and that decoder and encoder are inverse to each other.
-/

namespace Sys2Proof.Machine

open Sys2Proof

/-! The ten commands. -/

/-- A command is one byte, its code, on the channel of the command codes, and always well formed (R91). -/
theorem command_encoding {i : Instr} (hi : i ∈ commandList) :
    encode i = [i.code] ∧ i.wellFormed = true ∧ i.format = .command := by
  revert i
  simp only [commandList, List.forall_mem_cons]
  exact ⟨⟨rfl, rfl, rfl⟩, ⟨rfl, rfl, rfl⟩, ⟨rfl, rfl, rfl⟩, ⟨rfl, rfl, rfl⟩, ⟨rfl, rfl, rfl⟩, ⟨rfl, rfl, rfl⟩,
    ⟨rfl, rfl, rfl⟩, ⟨rfl, rfl, rfl⟩, ⟨rfl, rfl, rfl⟩, ⟨rfl, rfl, rfl⟩, nofun⟩

/-- The instructions on the channel of the command codes are the ten commands (R91). -/
theorem mem_commandList_iff (i : Instr) : i ∈ commandList ↔ i.format = .command := by
  refine ⟨fun hi => (command_encoding hi).2.2, fun hf => ?_⟩
  cases i <;> simp_all [Instr.format, commandList]

/-- A code that decodes is one of the ten, and it decodes to the command whose code it is (R91, R93). -/
theorem decode_command_eq_ok {c : Byte} {i : Instr} (h : decode .command [c] = .ok i) : i ∈ commandList ∧ i.code = c := by
  by_cases hc : c ∈ commandCodes
  · rw [commandCodes_eq_map_code, List.mem_map] at hc
    obtain ⟨j, hj, rfl⟩ := hc
    rw [decode_code_of_mem_commandList hj] at h
    cases h
    exact ⟨hj, rfl⟩
  · rw [decode_command_of_not_mem hc] at h
    cases h

/-! The address byte of the serial frames (R101, R102). -/

/-- The opcode bit stands above the seven bits of the address, and both are read back. -/
theorem writeAddress_bits (a : SerAddr) :
    (0x80#8 ||| a.setWidth 8) &&& 0x80#8 = 0x80#8 ∧ (0x80#8 ||| a.setWidth 8).setWidth 7 = a := by
  revert a; decide

/-- An address byte with the opcode bit is that bit over its own seven bits. -/
theorem writeAddress_of_opBit (b : Byte) (h : b &&& 0x80#8 = 0x80#8) : 0x80#8 ||| (b.setWidth 7).setWidth 8 = b := by
  revert b; decide

/-- The address byte of a read carries the address unmasked. -/
theorem readAddress_bits (a : SerAddr) :
    (a.setWidth 8 &&& 0x7F#8) &&& 0x7F#8 = a.setWidth 8 &&& 0x7F#8 ∧ (a.setWidth 8 &&& 0x7F#8).setWidth 7 = a := by
  revert a; decide

/-- A byte within the address mask is the address byte of its own seven bits. -/
theorem readAddress_of_masked (b : Byte) (h : b &&& 0x7F#8 = b) : (b.setWidth 7).setWidth 8 &&& 0x7F#8 = b := by
  revert b; decide

/-! The read reply (R103, R182). -/

/-- Bit 0 of the value comes from byte 3, every other one from byte 2, one place lower. -/
theorem readReplyValue_getLsbD (r2 r3 : Byte) (k : Nat) :
    (readReplyValue r2 r3).getLsbD k = if k = 0 then r3.getLsbD 7 else (decide (k < 8) && r2.getLsbD (k - 1)) := by
  have hhigh : (0xFE#8).getLsbD k = (decide (k < 8) && decide (k ≠ 0)) := by
    rcases Nat.lt_or_ge k 8 with hk | hk
    · interval_cases k <;> rfl
    · rw [BitVec.getLsbD_of_ge _ _ hk]; simp [Nat.not_lt.2 hk]
  have hlow : (0x01#8).getLsbD k = decide (k = 0) := by
    rw [BitVec.getLsbD_one]; simp
  simp only [readReplyValue, BitVec.getLsbD_or, BitVec.getLsbD_and, BitVec.getLsbD_shiftLeft, BitVec.getLsbD_ushiftRight,
    hhigh, hlow]
  rcases Nat.eq_zero_or_pos k with rfl | hk
  · simp
  · have hne : k ≠ 0 := by omega
    have hlt : ¬ k < 1 := by omega
    simp [hne, hlt, Bool.and_comm]

/-- The shift-and-mask arithmetic on naturals is that on bytes, since the mask cuts the overflow. -/
theorem readReplyValue_toNat (r2 r3 : Byte) :
    (readReplyValue r2 r3).toNat = ((r2.toNat <<< 1) &&& 0xFE) ||| ((r3.toNat >>> 7) &&& 0x01) := by
  have hmask : (r2.toNat <<< 1) % 2 ^ 8 &&& 0xFE = (r2.toNat <<< 1) &&& 0xFE := by
    rw [← Nat.and_two_pow_sub_one_eq_mod, Nat.and_assoc]; rfl
  rw [← hmask]
  rfl

/-- Every value is carried by the reply that shifts it one place down and its lowest bit to the top. -/
theorem readReplyValue_of_shifts (v : Byte) :
    readReplyValue (v >>> 1) (v <<< 7) = v ∧ readReplyValue (v >>> 1) ((v &&& 1) <<< 7) = v := by
  revert v; decide

/-! Decoder and encoder. -/

/-- Settles O1: each constructor's bytes take the decoder's own branch of its channel. -/
theorem decodeReadsBackEveryEncoding : Obligations.DecodeReadsBackEveryEncoding := by
  intro i hwf
  by_cases hcommand : i ∈ commandList
  · obtain ⟨henc, -, hformat⟩ := command_encoding hcommand
    rw [hformat, henc, decode_code_of_mem_commandList hcommand]
  cases i with
  | i2cPage start payload =>
    cases payload with
    | nil => simp [Instr.wellFormed, pageFrameOk] at hwf
    | cons p rest => exact if_pos hwf
  | serWrite a d =>
    obtain ⟨hop, haddr⟩ := writeAddress_bits a
    refine (if_pos ⟨rfl, hop⟩).trans ?_
    rw [show serEnc.writeOpBit = 0x80#8 from rfl, haddr]
  | serRead a =>
    obtain ⟨hmask, haddr⟩ := readAddress_bits a
    refine (if_pos ⟨rfl, hmask, rfl⟩).trans ?_
    rw [show serEnc.readAddrMask = 0x7F#8 from rfl, haddr]
  | serReadReply v =>
    change Except.ok (Instr.serReadReply (readReplyValue (v >>> 1) (v <<< 7))) = _
    rw [(readReplyValue_of_shifts v).1]
  | slaveFrame bytes => exact if_pos hwf
  | i2cProbe | serEwen | serPoll | serIdle => rfl
  | _ => exact absurd (by decide) hcommand

/-- Bytes of an I2C write that decode are the encoding of a well-formed I2C frame (R94, R95). -/
theorem decodeI2c_eq_ok {bs : List Byte} {i : Instr} (h : decodeI2c bs = .ok i) :
    encode i = bs ∧ i.wellFormed = true ∧ i.format = .i2c := by
  unfold decodeI2c at h
  split at h
  · cases h
  · split_ifs at h with hb
    cases h
    exact ⟨by rw [hb]; rfl, rfl, rfl⟩
  · split_ifs at h with hok
    cases h
    exact ⟨rfl, hok, rfl⟩

/-- Bytes of a transceive that decode are the encoding of a serial frame (R99 to R105). -/
theorem decodeSerial_eq_ok {bs : List Byte} {i : Instr} (h : decodeSerial bs = .ok i) :
    encode i = bs ∧ i.wellFormed = true ∧ i.format = .serial := by
  unfold decodeSerial at h
  split at h
  · split_ifs at h with hb
    cases h
    exact ⟨by rw [hb]; rfl, rfl, rfl⟩
  · split_ifs at h with hb
    cases h
    exact ⟨hb.symm, rfl, rfl⟩
  · split_ifs at h with hb
    obtain ⟨hb0, hop⟩ := hb
    cases h
    refine ⟨?_, rfl, rfl⟩
    rw [encode, hb0, show serEnc.writeOpBit = 0x80#8 from rfl, writeAddress_of_opBit _ hop]
  · split_ifs at h with hb
    obtain ⟨hb0, hmask, hpad⟩ := hb
    cases h
    refine ⟨?_, rfl, rfl⟩
    rw [encode, hb0, ← hpad, show serEnc.readAddrMask = 0x7F#8 from rfl, readAddress_of_masked _ hmask]
  · split_ifs at h with hb
    cases h
    exact ⟨hb.symm, rfl, rfl⟩

/-- Settles O2: channel by channel, each branch of the decoder that accepts has checked what the encoder writes. -/
theorem decodedBytesAreTheEncoding : Obligations.DecodedBytesAreTheEncoding := by
  intro f bs i hf h
  cases f with
  | command =>
    match bs, h with
    | [c], h =>
      obtain ⟨hi, rfl⟩ := decode_command_eq_ok h
      exact command_encoding hi
    | [], h => cases h
    | _ :: _ :: _, h => cases h
  | i2c => exact decodeI2c_eq_ok h
  | serial => exact decodeSerial_eq_ok h
  | serialReply => exact absurd rfl hf
  | slave =>
    change decodeSlave bs = _ at h
    unfold decodeSlave at h
    split_ifs at h with hok
    cases h
    exact ⟨rfl, hok, rfl⟩

/-- Settles O3: the ten rows of the decoder, and its last one. -/
theorem decoderIsTotalOnAllCodes : Obligations.DecoderIsTotalOnAllCodes := by
  refine ⟨?_, fun c hc => decode_command_of_not_mem hc⟩
  rw [commandCodes_eq_map_code, List.map_map]
  exact List.map_congr_left fun i hi => decode_code_of_mem_commandList hi

/-- Settles O4: every sample is the encoding of a well-formed instruction, so O1 reads it back; the read reply, whose
ignored bits are set in the sample, is decoded as it stands. -/
theorem sampleFramesDecode : Obligations.SampleFramesDecode := by
  have read : ∀ i : Instr, i.wellFormed = true → decode i.format (encode i) = .ok i := decodeReadsBackEveryEncoding
  exact ⟨read .ssweepw rfl, read .i2cProbe rfl, read (.i2cPage 0x78 (List.replicate 8 0xAA)) (by decide),
    read .serEwen rfl, read (.serWrite 0x2A 0x5A) rfl, read (.serRead 0x2A) rfl, rfl,
    read (.slaveFrame [0x68, 0x65]) rfl⟩

/-- Settles O5: the value bit by bit, as arithmetic, and the reply that carries a given value. -/
theorem readReplyBitMap : Obligations.ReadReplyBitMap := by
  refine ⟨fun r0 r1 r2 r3 => ⟨_, rfl, readReplyValue_toNat r2 r3, fun k hk => ?_, ?_⟩, fun r0 r1 v => ?_⟩
  · rw [readReplyValue_getLsbD, if_neg (by omega)]
    simp [show k + 1 < 8 by omega]
  · rw [readReplyValue_getLsbD, if_pos rfl]
  · change Except.ok (Instr.serReadReply (readReplyValue (v >>> 1) ((v &&& 1) <<< 7))) = _
    rw [(readReplyValue_of_shifts v).2]

end Sys2Proof.Machine
end

section
/-!
PROOFS. The machine's invariant (spec/10_state.md R24 to R32, spec/44_common_semantics.md R313): what it says of a running
command and of an idle block, that the issue of each command establishes it, that each continuation of the sequencer keeps
it, and with them every step.
-/

namespace Sys2Proof.Machine

open Sys2Proof

/-! The parts of the invariant as propositions. -/

theorem inv_iff (s : State) :
    s.inv = true ↔ s.statusOk = true ∧ s.buffersOk = true ∧ s.resultsOk = true ∧ s.seqOk = true := by
  simp only [State.inv, Bool.and_eq_true, and_assoc]

theorem buffersOk_iff (s : State) :
    s.buffersOk = true ↔
      Memory.wf .dbuf s.dbuf = true ∧ Memory.wf .unitstat s.unitstat = true ∧ Memory.wf .xlut s.xlut = true := by
  simp only [State.buffersOk, Bool.and_eq_true, and_assoc]

theorem statusOk_iff (s : State) :
    s.statusOk = true ↔
      (s.status = statusBusy ∧ s.seq ≠ .idle) ∨ ((s.status = 0x00 ∨ s.status = statusDone) ∧ s.seq = .idle) := by
  simp only [State.statusOk, Bool.or_eq_true, Bool.and_eq_true, decide_eq_true_eq]

theorem resultsOk_iff (s : State) :
    s.resultsOk = true ↔
      s.res.result.toNat ≤ 4 ∧ s.res.cause.toNat ≤ 2 ∧
        (s.res.cause ≠ 0 ↔ s.res.result = Kind.partialFailure.code) ∧
        lowTwoBits s.res.flags = s.res.flags ∧ (s.seq ≠ .idle → s.res.result = 0) := by
  simp only [State.resultsOk, Bool.and_eq_true, decide_eq_true_eq, and_assoc]

theorem ofUnit_iff (k : Kind) : k.ofUnit = true ↔ k = .success ∨ k = .transportError ∨ k = .busyTimeout := by
  simp only [Kind.ofUnit, Bool.or_eq_true, decide_eq_true_eq, or_assoc]

theorem onPage_iff (s : State) :
    s.onPage = true ↔ s.cmd = 0x02#8 ∧ s.latch.pgwriteLegal = true ∧ s.idx < s.latch.pageCount ∧
      s.peerWritten = true ∧ (dbufRead s.dbuf 0 s.latch.len.toNat).isSome = true := by
  simp only [State.onPage, Bool.and_eq_true, decide_eq_true_eq, inPgwrite_iff, and_assoc]

theorem onWait_iff (s : State) :
    s.onWait = true ↔ (s.cmd = 0x01#8 ∧ s.peerWritten = true) ∨ s.onPage = true := by
  simp only [State.onWait, Bool.or_eq_true, Bool.and_eq_true, decide_eq_true_eq]; exact Iff.rfl

theorem onPgread_iff (s : State) :
    s.onPgread = true ↔ s.cmd = 0x03#8 ∧ s.latch.pgreadLegal = true ∧ s.peerWritten = true := by
  simp only [State.onPgread, Bool.and_eq_true, inPgread_iff, and_assoc]

theorem onSweep_iff (s : State) :
    s.onSweep = true ↔
      ((s.cmd = 0x13#8 ∧ (dbufRead s.dbuf 0 s.latch.devSize.toNat).isSome = true) ∨ s.cmd = 0x14#8) ∧
        s.latch.devSizeLegal = true ∧ s.idx < s.latch.devSize.toNat ∧ s.sweepLogOk = true := by
  simp only [State.onSweep, Bool.and_eq_true, Bool.or_eq_true, decide_eq_true_eq, inSweepWrite_iff, inSweepRead_iff,
    and_assoc]

theorem onWrite_iff (s : State) :
    s.onWrite = true ↔ (s.cmd = 0x11#8 ∧ s.latch.saddrLegal = true) ∨ (s.cmd = 0x13#8 ∧ s.onSweep = true) := by
  simp only [State.onWrite, Bool.and_eq_true, Bool.or_eq_true, decide_eq_true_eq, inSweepWrite_iff]; exact Iff.rfl

theorem onRead_iff (s : State) :
    s.onRead = true ↔ (s.cmd = 0x12#8 ∧ s.latch.saddrLegal = true) ∨ (s.cmd = 0x14#8 ∧ s.onSweep = true) := by
  simp only [State.onRead, Bool.and_eq_true, Bool.or_eq_true, decide_eq_true_eq, inSweepRead_iff]; exact Iff.rfl

theorem onFrame_iff (s : State) :
    s.onFrame = true ↔ s.cmd = 0x20#8 ∧ s.latch.rxTargetLegal = true ∧ s.filled ≤ s.latch.rxTarget.toNat ∧
      s.att ≤ s.latch.rxPollLimit.toNat ∧ (dbufRead s.dbuf 0 s.filled).isSome = true := by
  simp only [State.onFrame, Bool.and_eq_true, decide_eq_true_eq, and_assoc]; exact Iff.rfl

theorem sweepLogOk_iff (s : State) :
    s.sweepLogOk = true ↔ s.fails ≤ s.idx ∧ (s.fails = 0 ↔ s.first = none) ∧
      ∀ a k, s.first = some (a, k) → a < s.idx ∧ k.ofUnit = true ∧ k ≠ .success := by
  simp only [State.sweepLogOk, Bool.and_eq_true, decide_eq_true_eq, and_assoc]
  cases s.first with
  | none => simp
  | some p =>
    obtain ⟨a, k⟩ := p
    simp only [Bool.and_eq_true, decide_eq_true_eq, and_assoc, Option.some.injEq, Prod.mk.injEq]
    exact and_congr_right' (and_congr_right'
      ⟨fun h _ _ e => by obtain ⟨rfl, rfl⟩ := e; exact h, fun h => h a k ⟨rfl, rfl⟩⟩)

/-! What is the same of every running command. -/

/-- What the invariant says of a running command apart from its sequencer state: BUSY alone (R24), canonical buffers (R84),
no result yet, and FLAGS within its two bits (R26, R29). -/
structure State.InProgress (s : State) : Prop where
  status  : s.status = statusBusy
  buffers : s.buffersOk = true
  result  : s.res.result = 0
  cause   : s.res.cause = 0
  flags   : lowTwoBits s.res.flags = s.res.flags

/-- What is in progress stays so under any update of the other fields. -/
theorem State.InProgress.update {s t : State} (h : s.InProgress) (hstatus : t.status = s.status := by rfl)
    (hbuffers : t.buffersOk = s.buffersOk := by rfl) (hresult : t.res.result = s.res.result := by rfl)
    (hcause : t.res.cause = s.res.cause := by rfl) (hflags : t.res.flags = s.res.flags := by rfl) : t.InProgress :=
  ⟨hstatus ▸ h.status, hbuffers ▸ h.buffers, hresult ▸ h.result, hcause ▸ h.cause, by rw [hflags]; exact h.flags⟩

/-- While BUSY = 1 the invariant puts SEQ at a state of a command, and while BUSY = 0 at Idle (R24, R27). -/
theorem busy_iff_of_inv {s : State} (h : s.inv = true) : s.busy = true ↔ s.seq ≠ .idle := by
  obtain ⟨hstatus, -⟩ := (inv_iff s).1 h
  rcases (statusOk_iff s).1 hstatus with ⟨hs, hq⟩ | ⟨hs, hq⟩
  · simp [State.busy, hs, hq, statusBusy]
  · rcases hs with hs | hs <;> simp [State.busy, hs, hq, statusDone]

theorem seq_idle_of_inv {s : State} (h : s.inv = true) (hb : s.busy = false) : s.seq = .idle := by
  by_contra hq
  rw [(busy_iff_of_inv h).2 hq] at hb
  cases hb

theorem inProgress_of_inv {s : State} (h : s.inv = true) (hq : s.seq ≠ .idle) : s.InProgress := by
  obtain ⟨hstatus, hbuf, hres, -⟩ := (inv_iff s).1 h
  obtain ⟨-, -, hcause, hflags, hresult⟩ := (resultsOk_iff s).1 hres
  have hresult := hresult hq
  refine ⟨?_, hbuf, hresult, ?_, hflags⟩
  · rcases (statusOk_iff s).1 hstatus with ⟨hs, -⟩ | ⟨-, hidle⟩
    · exact hs
    · exact absurd hidle hq
  · by_contra hne
    have := hcause.1 hne
    rw [hresult] at this
    exact absurd this (by decide)

/-- A running command at a sequencer state of its own meets the invariant. -/
theorem State.InProgress.inv {s : State} (h : s.InProgress) (hq : s.seq ≠ .idle) (hs : s.seqOk = true) : s.inv = true := by
  refine (inv_iff s).2 ⟨(statusOk_iff s).2 (.inl ⟨h.status, hq⟩), h.buffers, (resultsOk_iff s).2 ?_, hs⟩
  refine ⟨?_, ?_, ?_, h.flags, fun _ => h.result⟩
  · rw [h.result]; decide
  · rw [h.cause]; decide
  · rw [h.result, h.cause]; decide

/-- At the end of a command FLAGS stays within its two bits (R29). -/
theorem lowTwoBits_flagsAtEnd (f : Byte) (k : Kind) : lowTwoBits (flagsAtEnd f k) = flagsAtEnd f k := by
  cases k <;> (revert f; decide)

theorem lowTwoBits_flagsWithValid (f : Byte) (b : Bool) : lowTwoBits (flagsWithValid f b) = flagsWithValid f b := by
  revert f b; decide

theorem code_toNat_le (k : Kind) : k.code.toNat ≤ 4 := by
  cases k <;> decide

theorem code_injective : Function.Injective Kind.code := by
  intro k k' h
  cases k <;> cases k' <;> simp_all [Kind.code]

/-- A command that ends with a kind of its own meets the invariant (R238). -/
theorem State.InProgress.inv_finish {s : State} (h : s.InProgress) {k : Kind} (hk : k ≠ .partialFailure) :
    (s.finish k).inv = true := by
  refine (inv_iff _).2 ⟨(statusOk_iff _).2 (.inr ⟨.inr rfl, rfl⟩), h.buffers, (resultsOk_iff _).2 ?_, rfl⟩
  refine ⟨code_toNat_le k, ?_, ?_, lowTwoBits_flagsAtEnd _ _, fun hne => absurd rfl hne⟩
  · simp only [finish_res, h.cause]
    decide
  · simp only [finish_res, h.cause, ne_eq, not_true_eq_false, false_iff]
    exact fun he => hk (code_injective he)

/-- A command that ends with PartialFailure, its cause the kind of a failed unit, meets the invariant (R234). -/
theorem State.InProgress.inv_finishPartial {s : State} (h : s.InProgress) {k : Kind} {u : Nat} (hk : k.ofUnit = true)
    (hne : k ≠ .success) : (s.finishPartial k u).inv = true := by
  refine (inv_iff _).2 ⟨(statusOk_iff _).2 (.inr ⟨.inr rfl, rfl⟩), h.buffers, (resultsOk_iff _).2 ?_, rfl⟩
  have hcause : k.code.toNat ≤ 2 ∧ k.code ≠ 0 := by
    rcases (ofUnit_iff k).1 hk with rfl | rfl | rfl
    · exact absurd rfl hne
    · decide
    · decide
  exact ⟨code_toNat_le _, hcause.1, iff_of_true hcause.2 rfl, lowTwoBits_flagsAtEnd _ _, fun hne => absurd rfl hne⟩

/-- An idle block meets the invariant whatever its registers hold, as long as its results and buffers do. -/
theorem inv_of_idle {s t : State} (h : s.inv = true) (hb : s.busy = false) (hseq : t.seq = s.seq)
    (hstatus : t.status = s.status) (hres : t.res = s.res) (hbuf : t.buffersOk = true) : t.inv = true := by
  have hidle := seq_idle_of_inv h hb
  obtain ⟨hs, -, hr, -⟩ := (inv_iff s).1 h
  refine (inv_iff t).2 ⟨?_, hbuf, ?_, ?_⟩
  · rwa [statusOk_iff, hseq, hstatus, ← statusOk_iff]
  · rwa [resultsOk_iff, hseq, hres, ← resultsOk_iff]
  · simp only [State.seqOk, hseq, hidle]

/-! The sequencer's continuations: the wait (R132) and the page loop (R152). -/

theorem State.InProgress.ackResults {s : State} (h : s.InProgress) : s.ackResults.InProgress :=
  ⟨h.status, h.buffers, h.result, h.cause, lowTwoBits_flagsWithValid _ _⟩

/-- A wait of PGWRITE is a page in hand. -/
theorem onPage_of_onWait {s : State} (h : s.onWait = true) (hc : s.inPgwrite = true) : s.onPage = true := by
  rcases (onWait_iff s).1 h with ⟨hcmd, -⟩ | h
  · rw [(inPgwrite_iff s).1 hc] at hcmd
    exact absurd hcmd (by decide)
  · exact h

theorem not_inPgread_of_onWait {s : State} (h : s.onWait = true) : s.inPgread = false := by
  have hcmd : s.cmd = 0x01#8 ∨ s.cmd = 0x02#8 := ((onWait_iff s).1 h).imp And.left fun hp => ((onPage_iff s).1 hp).1
  rcases hcmd with hcmd | hcmd <;> simp [State.inPgread, Instr.code, hcmd]

theorem pageDone_inv {s : State} (h : s.InProgress) (hp : s.onPage = true) : s.pageDone.inv = true := by
  unfold State.pageDone
  split_ifs with hlt
  · obtain ⟨hcmd, hlegal, -, hpeer, hdata⟩ := (onPage_iff s).1 hp
    exact State.InProgress.inv h.update nofun
      ((onPage_iff _).2 ⟨hcmd, hlegal, hlt, hpeer, hdata⟩)
  · exact State.InProgress.inv_finish h.update nofun

theorem pageAborted_inv {s : State} (h : s.InProgress) {k : Kind} (hk : k.ofUnit = true) (hne : k ≠ .success) :
    (s.pageAborted k).inv = true :=
  State.InProgress.inv_finishPartial (s := { s with res.xfer := BitVec.ofNat 16 s.idx }) h.update hk hne

theorem ackEnd_inv {s : State} (h : s.InProgress) (hp : s.inPgwrite = true → s.onPage = true) {k : Kind}
    (hk : k.ofUnit = true) : (s.ackEnd k).inv = true := by
  unfold State.ackEnd
  split_ifs with hcmd hsuccess
  · exact pageDone_inv h.ackResults (hp hcmd)
  · exact pageAborted_inv h.ackResults hk hsuccess
  · refine h.ackResults.inv_finish ?_
    rintro rfl
    exact absurd hk (by decide)

theorem ackBegin_inv {s : State} (h : s.InProgress) (hp : s.inPgwrite = true → s.onPage = true)
    (hw : 0 < s.latch.retryLimit.toNat → s.onWait = true) : s.ackBegin.inv = true := by
  unfold State.ackBegin
  dsimp only
  have h' : ({ s with att := 0, ackValid := false } : State).InProgress :=
    h.update
  split_ifs with hlim
  · exact State.InProgress.inv h.update nofun
      (Bool.and_eq_true_iff.2 ⟨hw hlim, decide_eq_true hlim⟩)
  · exact ackEnd_inv h' hp rfl

theorem ackRetry_inv {s : State} (h : s.InProgress) (hw : s.onWait = true) : s.ackRetry.inv = true := by
  unfold State.ackRetry
  split_ifs with hlim
  · exact State.InProgress.inv h.update nofun
      (Bool.and_eq_true_iff.2 ⟨hw, decide_eq_true hlim⟩)
  · exact ackEnd_inv h (onPage_of_onWait hw) rfl

theorem ackProbed_inv {s : State} (h : s.InProgress) (hw : s.onWait = true) (hatt : s.att < s.latch.retryLimit.toNat)
    (a : Answer) : (State.ackProbed a s).inv = true := by
  unfold State.ackProbed
  dsimp only
  split_ifs
  · exact State.InProgress.inv h.update nofun
      (Bool.or_eq_true_iff.2 (.inl (Bool.and_eq_true_iff.2 ⟨hw, decide_eq_true hatt⟩)))
  · exact ackEnd_inv (s := { s with att := s.att + 1 }) h.update
      (onPage_of_onWait hw) rfl

theorem ackClassified_inv {s : State} (h : s.InProgress) (hw : s.onWait = true) (c : Byte) :
    (State.ackClassified c s).inv = true := by
  have h' : ({ s with ackStatus := c, ackValid := true } : State).InProgress :=
    h.update
  unfold State.ackClassified
  dsimp only
  split
  · exact ackEnd_inv h' (onPage_of_onWait hw) rfl
  all_goals exact ackRetry_inv h' hw

theorem rdProbed_inv {s : State} (h : s.InProgress) (hr : s.onPgread = true) (a : Answer) :
    (State.rdProbed a s).inv = true := by
  unfold State.rdProbed
  split_ifs with ha hu
  · exact State.InProgress.inv h.update nofun
      (Bool.or_eq_true_iff.2 (.inr (Bool.and_eq_true_iff.2 ⟨hr, hu⟩)))
  · exact State.InProgress.inv h.update nofun hr
  · exact h.inv_finish nofun

theorem statusAnswered_inv {s : State} (h : s.InProgress) (hw : s.onWait = true ∨ s.onPgread = true) (a : Answer) :
    (State.statusAnswered a s).inv = true := by
  unfold State.statusAnswered
  rcases hw with hw | hr
  · simp only [not_inPgread_of_onWait hw, Bool.false_eq_true, if_false]
    split
    · exact ackClassified_inv h hw _
    · exact ackEnd_inv h (onPage_of_onWait hw) rfl
  · simp only [(inPgread_iff s).2 ((onPgread_iff s).1 hr).1, if_true]
    split
    · exact State.InProgress.inv h.update nofun hr
    · exact h.inv_finish nofun

theorem pageSent_inv {s : State} (h : s.InProgress) (hp : s.onPage = true) (n : Nat) (a : Answer) :
    (State.pageSent n a s).inv = true := by
  unfold State.pageSent
  split_ifs
  · exact ackBegin_inv h (fun _ => hp) fun _ => (onWait_iff s).2 (.inr hp)
  · exact pageAborted_inv h rfl nofun

theorem bulkAnswered_inv {s : State} (h : s.InProgress) (hr : s.onPgread = true) {a : Answer}
    (ha : ∀ b, a = .bytes b → b.length ≤ s.latch.len.toNat) : (State.bulkAnswered a s).inv = true := by
  unfold State.bulkAnswered
  split
  case h_1 b =>
    obtain ⟨hdbuf, hrest⟩ := (buffersOk_iff s).1 h.buffers
    have hlen := ((pgreadLegal_iff _).1 ((onPgread_iff s).1 hr).2.1).2
    have hbytes := ha b rfl
    have hwf := wf_dbufWrite b s.dbuf 0 hdbuf (by simp only [Config.dbufSize]; omega)
    refine State.InProgress.inv_finish
      (s := { s with dbuf := dbufWrite s.dbuf 0 b, res.xfer := BitVec.ofNat 16 b.length })
      ⟨h.status, (buffersOk_iff _).2 ⟨hwf, hrest⟩, h.result, h.cause, h.flags⟩ ?_
    split_ifs <;> nofun
  case h_2 => exact h.inv_finish nofun

/-! The serial driver (R171 to R189). -/

/-- The log of a sweep after one more unit: what it says holds of the addresses below the next one (R187). -/
theorem sweepLogOk_unitLogged {s : State} (h : s.sweepLogOk = true) {k : Kind} (hk : k.ofUnit = true) :
    ({ s.unitLogged k with idx := s.idx + 1 } : State).sweepLogOk = true := by
  obtain ⟨hfails, hnone, hfirst⟩ := (sweepLogOk_iff s).1 h
  refine (sweepLogOk_iff _).2 ?_
  simp only [unitLogged_fails, unitLogged_first]
  by_cases hs : k = .success
  · simp only [hs, if_true, ne_eq, not_true_eq_false, false_and, if_false]
    exact ⟨by omega, hnone, fun a k' e => ⟨by have := (hfirst a k' e).1; omega, (hfirst a k' e).2⟩⟩
  · simp only [hs, if_false, ne_eq, not_false_eq_true, true_and]
    refine ⟨by omega, ?_, ?_⟩
    · by_cases hn : s.first = none <;> simp [hn]
    · intro a k' e
      split_ifs at e
      · cases e
        exact ⟨by omega, hk, hs⟩
      · exact ⟨by have := (hfirst a k' e).1; omega, (hfirst a k' e).2⟩

/-- The address of a sweep is an index of its log and of DBUF (R186). -/
theorem idx_lt_of_onSweep {s : State} (h : s.onSweep = true) : s.idx < 128 := by
  obtain ⟨-, hlegal, hlt, -⟩ := (onSweep_iff s).1 h
  have := ((devSizeLegal_iff _).1 hlegal).2
  omega

theorem State.InProgress.unitLogged {s : State} (h : s.InProgress) (hi : s.idx < 128) (k : Kind) :
    (s.unitLogged k).InProgress := by
  obtain ⟨hdbuf, hunit, hxlut⟩ := (buffersOk_iff s).1 h.buffers
  exact ⟨h.status, (buffersOk_iff _).2 ⟨hdbuf, wf_bufPut .unitstat _ _ _ hunit hi, hxlut⟩, h.result, h.cause, h.flags⟩

theorem sweepEnd_inv {s : State} (h : s.InProgress)
    (hfirst : ∀ a k, s.first = some (a, k) → k.ofUnit = true ∧ k ≠ .success) : s.sweepEnd.inv = true := by
  have h' : ({ s with res.failcnt := BitVec.ofNat 16 s.fails } : State).InProgress :=
    h.update
  unfold State.sweepEnd
  dsimp only
  split
  · exact h'.inv_finish nofun
  · next a k hf => exact h'.inv_finishPartial (hfirst a k hf).1 (hfirst a k hf).2

theorem unitEnd_inv {s : State} (h : s.InProgress) (hs : s.onSweep = true) {k : Kind} (hk : k.ofUnit = true) :
    (s.unitEnd k).inv = true := by
  have hl := h.unitLogged (idx_lt_of_onSweep hs) k
  obtain ⟨hcmd, hlegal, -, hlog⟩ := (onSweep_iff s).1 hs
  have hlog' := sweepLogOk_unitLogged hlog hk
  unfold State.unitEnd
  dsimp only
  split_ifs with hlt
  · exact State.InProgress.inv hl.update nofun
      ((onSweep_iff _).2 ⟨hcmd, hlegal, hlt, hlog'⟩)
  · exact sweepEnd_inv hl fun a k' hf => (((sweepLogOk_iff _).1 hlog').2.2 a k' hf).2

theorem onSweep_of_onWrite {s : State} (h : s.onWrite = true) (hc : s.inSweepWrite = true) : s.onSweep = true := by
  rcases (onWrite_iff s).1 h with ⟨hcmd, -⟩ | ⟨-, hs⟩
  · rw [(inSweepWrite_iff s).1 hc] at hcmd
    exact absurd hcmd (by decide)
  · exact hs

theorem onSweep_of_onRead {s : State} (h : s.onRead = true) (hc : s.inSweepRead = true) : s.onSweep = true := by
  rcases (onRead_iff s).1 h with ⟨hcmd, -⟩ | ⟨-, hs⟩
  · rw [(inSweepRead_iff s).1 hc] at hcmd
    exact absurd hcmd (by decide)
  · exact hs

theorem writeEnd_inv {s : State} (h : s.InProgress) (hw : s.onWrite = true) {k : Kind} (hk : k.ofUnit = true) :
    (s.writeEnd k).inv = true := by
  have h' : ({ s with res.attempts := BitVec.ofNat 32 s.att } : State).InProgress :=
    h.update
  unfold State.writeEnd
  dsimp only
  split_ifs with hc
  · exact unitEnd_inv h' (onSweep_of_onWrite hw hc) hk
  · refine h'.inv_finish ?_
    rintro rfl
    exact absurd hk (by decide)

theorem writeCommandAnswered_inv {s : State} (h : s.InProgress) (hw : s.onWrite = true) (a : Answer) :
    (State.writeCommandAnswered a s).inv = true := by
  unfold State.writeCommandAnswered
  dsimp only
  split_ifs with hfull hlim hu
  · exact State.InProgress.inv h.update nofun
      (Bool.and_eq_true_iff.2 ⟨hw, decide_eq_true hlim⟩)
  · exact State.InProgress.inv h.update nofun
      (Bool.and_eq_true_iff.2 ⟨Bool.and_eq_true_iff.2 ⟨hw, decide_eq_true (Nat.zero_le _)⟩, rfl⟩)
  · exact State.InProgress.inv h.update nofun
      (Bool.and_eq_true_iff.2 ⟨Bool.and_eq_true_iff.2 ⟨hw, decide_eq_true (Nat.zero_le _)⟩, rfl⟩)
  · exact writeEnd_inv (s := { s with att := 0 }) h.update hw rfl

/-- A poll that goes to the cleanup, with its outcome the kind of a unit (R176). -/
theorem toCleanup_inv {s : State} (h : s.InProgress) (hw : s.onWrite = true) (hatt : s.att < s.latch.pollLimit.toNat)
    {k : Kind} (hk : k.ofUnit = true) :
    ({ s with att := s.att + 1, outcome := k, seq := .wrCleanup } : State).inv = true :=
  State.InProgress.inv h.update nofun
    (Bool.and_eq_true_iff.2 ⟨Bool.and_eq_true_iff.2 ⟨hw, decide_eq_true hatt⟩, hk⟩)

theorem pollAnswered_inv {s : State} (h : s.InProgress) (hw : s.onWrite = true) (hatt : s.att < s.latch.pollLimit.toNat)
    (a : Answer) : (State.pollAnswered a s).inv = true := by
  unfold State.pollAnswered
  dsimp only
  split
  · exact toCleanup_inv h hw hatt rfl
  · split_ifs with hnz hlim
    · exact toCleanup_inv h hw hatt rfl
    · exact State.InProgress.inv h.update nofun
        (Bool.and_eq_true_iff.2 ⟨hw, decide_eq_true hlim⟩)
    · exact toCleanup_inv h hw hatt rfl

theorem cleanupAnswered_inv {s : State} (h : s.InProgress) (hw : s.onWrite = true) (ho : s.outcome.ofUnit = true)
    (a : Answer) : (State.cleanupAnswered a s).inv = true := by
  refine writeEnd_inv h hw ?_
  split_ifs
  · rfl
  · exact ho

theorem readDone_inv {s : State} (h : s.InProgress) (hr : s.onRead = true) (v : Byte) : (s.readDone v).inv = true := by
  unfold State.readDone
  split_ifs with hc
  · have hs := onSweep_of_onRead hr hc
    have hi := idx_lt_of_onSweep hs
    obtain ⟨hdbuf, hrest⟩ := (buffersOk_iff s).1 h.buffers
    have hwf := wf_bufPut .dbuf s.dbuf s.idx v hdbuf (by simp only [BufSpace.size, Config.dbufSize]; omega)
    refine unitEnd_inv (s := { s with dbuf := bufPut .dbuf s.dbuf s.idx v })
      ⟨h.status, (buffersOk_iff _).2 ⟨hwf, hrest⟩, h.result, h.cause, h.flags⟩ ?_ rfl
    exact (onSweep_iff _).2 ⟨.inr ((inSweepRead_iff s).1 hc), ((onSweep_iff s).1 hs).2⟩
  · exact State.InProgress.inv_finish h.update nofun

theorem readFailed_inv {s : State} (h : s.InProgress) (hr : s.onRead = true) : s.readFailed.inv = true := by
  unfold State.readFailed
  split_ifs with hc
  · exact unitEnd_inv h (onSweep_of_onRead hr hc) rfl
  · exact h.inv_finish nofun

theorem readAnswered_inv {s : State} (h : s.InProgress) (hr : s.onRead = true) (a : Answer) :
    (State.readAnswered a s).inv = true := by
  unfold State.readAnswered
  split
  · exact readDone_inv h hr _
  · exact readFailed_inv h hr

theorem nextUnit_inv {s : State} (h : s.InProgress) (hs : s.onSweep = true) : s.nextUnit.inv = true := by
  have h' : s.nextUnit.InProgress := h.update
  by_cases hc : s.inSweepWrite = true
  · have hq : s.nextUnit.seq = .wrCmd := if_pos hc
    refine h'.inv (by rw [hq]; nofun) ?_
    simp only [State.seqOk, hq]
    exact (onWrite_iff _).2 (.inr ⟨(inSweepWrite_iff s).1 hc, hs⟩)
  · have hq : s.nextUnit.seq = .rdCmd := if_neg hc
    refine h'.inv (by rw [hq]; nofun) ?_
    simp only [State.seqOk, hq]
    refine (onRead_iff _).2 (.inr ⟨?_, hs⟩)
    rcases ((onSweep_iff s).1 hs).1 with ⟨hcmd, -⟩ | hcmd
    · exact absurd ((inSweepWrite_iff s).2 hcmd) hc
    · exact hcmd

/-! The reception and the reply (R211 to R222). -/

theorem rxPollAgain_inv {s : State} (h : s.InProgress) (hf : s.onFrame = true) (hlt : s.filled < s.latch.rxTarget.toNat) :
    s.rxPollAgain.inv = true := by
  unfold State.rxPollAgain
  split_ifs with hlim
  · refine State.InProgress.inv h.update nofun ?_
    simp only [State.seqOk, Bool.and_eq_true, decide_eq_true_eq]
    exact ⟨⟨⟨hf, hlt⟩, Nat.zero_le _⟩, fun _ => hlim⟩
  · exact State.InProgress.inv_finish (s := s.rxResults) h.update nofun

theorem rxPolled_inv {s : State} (h : s.InProgress) (hq : s.seq = .receiving) (hf : s.onFrame = true)
    (hlt : s.filled < s.latch.rxTarget.toNat) (hatt : s.att < s.latch.rxPollLimit.toNat) (a : Answer) :
    (State.rxPolled a s).inv = true := by
  obtain ⟨hcmd, hlegal, hle, -, hdata⟩ := (onFrame_iff s).1 hf
  have h' : ({ s with att := s.att + 1 } : State).InProgress := h.update
  have hf' : ({ s with att := s.att + 1 } : State).onFrame = true := (onFrame_iff _).2 ⟨hcmd, hlegal, hle, hatt, hdata⟩
  unfold State.rxPolled
  dsimp only
  split
  case h_1 k =>
    split_ifs with hk
    · exact rxPollAgain_inv h' hf' hlt
    · refine State.InProgress.inv h.update (by simp [hq]) ?_
      have hwant : min k (s.latch.rxTarget.toNat - s.filled) ≠ 0 := by omega
      simp only [State.seqOk, hq, Bool.and_eq_true, decide_eq_true_iff]
      exact ⟨⟨⟨hf', hlt⟩, Nat.min_le_right _ _⟩, fun h0 => absurd h0 hwant⟩
  case h_2 =>
    exact State.InProgress.inv_finish (s := State.rxResults { s with att := s.att + 1 })
      h.update nofun

/-- DBUF below the bytes received is written after a burst as well (R84, R214). -/
theorem dbufRead_isSome_dbufWrite (m : Memory) (n : Nat) (b : List Byte) (h : (dbufRead m 0 n).isSome = true) :
    (dbufRead (dbufWrite m n b) 0 (n + b.length)).isSome = true := by
  rw [dbufRead_isSome_iff] at h ⊢
  intro k hk
  rw [memLookup_dbufWrite]
  split_ifs with hin
  · rw [List.getElem?_eq_getElem (by omega)]
    rfl
  · exact h k (by omega)

theorem rxRead_inv {s : State} (h : s.InProgress) (hf : s.onFrame = true) {a : Answer}
    (ha : ∀ b, a = .bytes b → b.length ≤ s.latch.rxTarget.toNat - s.filled) : (State.rxRead a s).inv = true := by
  obtain ⟨hcmd, hlegal, hle, hatt, hdata⟩ := (onFrame_iff s).1 hf
  unfold State.rxRead
  dsimp only
  split
  case h_1 b =>
    have hlen := ha b rfl
    have htarget := ((rxTargetLegal_iff _).1 hlegal).2
    obtain ⟨hdbuf, hrest⟩ := (buffersOk_iff s).1 h.buffers
    have hwf := wf_dbufWrite b s.dbuf s.filled hdbuf (by simp only [Config.dbufSize]; omega)
    have h' : (s.burstStored b).InProgress :=
      ⟨h.status, (buffersOk_iff _).2 ⟨hwf, hrest⟩, h.result, h.cause, h.flags⟩
    have hf' : (s.burstStored b).onFrame = true :=
      (onFrame_iff _).2 ⟨hcmd, hlegal, show s.filled + b.length ≤ s.latch.rxTarget.toNat by omega, hatt,
        dbufRead_isSome_dbufWrite _ _ _ hdata⟩
    split_ifs with hlt
    · exact rxPollAgain_inv h' hf' hlt
    · refine State.InProgress.inv h'.update nofun ?_
      simp only [State.seqOk, Bool.and_eq_true, decide_eq_true_eq]
      exact ⟨hf', show s.filled + b.length = s.latch.rxTarget.toNat by
        change ¬ s.filled + b.length < s.latch.rxTarget.toNat at hlt
        omega⟩
  case h_2 =>
    exact State.InProgress.inv_finish (s := s.rxResults) h.update nofun

theorem dbufRead_isSome_transformFrame (xlut m : Memory) (t n : Nat) (h : (dbufRead m 0 n).isSome = true) :
    (dbufRead (transformFrame xlut m t) 0 n).isSome = true := by
  rw [dbufRead_isSome_iff] at h ⊢
  intro k hk
  rw [memLookup_transformFrame]
  split_ifs
  · simpa using h k hk
  · exact h k hk

theorem transformed_inv {s : State} (h : s.InProgress) (hf : s.onFrame = true) (hfull : s.filled = s.latch.rxTarget.toNat) :
    s.transformed.inv = true := by
  obtain ⟨hcmd, hlegal, hle, hatt, hdata⟩ := (onFrame_iff s).1 hf
  obtain ⟨hdbuf, hrest⟩ := (buffersOk_iff s).1 h.buffers
  refine State.InProgress.inv ⟨h.status, (buffersOk_iff _).2 ⟨wf_transformFrame _ _ _ hdbuf, hrest⟩, h.result, h.cause,
    h.flags⟩ nofun (Bool.and_eq_true_iff.2 ⟨?_, decide_eq_true hfull⟩)
  exact (onFrame_iff _).2 ⟨hcmd, hlegal, hle, hatt, dbufRead_isSome_transformFrame _ _ _ _ hdata⟩

theorem replied_inv {s : State} (h : s.InProgress) (hq : s.seq = .responding) (hf : s.onFrame = true)
    (hfull : s.filled = s.latch.rxTarget.toNat) (n : Nat) (a : Answer) : (State.replied n a s).inv = true := by
  unfold State.replied
  split_ifs
  · refine State.InProgress.inv h.update (by simp [hq]) ?_
    simp only [State.seqOk, hq]
    exact Bool.and_eq_true_iff.2 ⟨hf, decide_eq_true hfull⟩
  · exact h.inv_finish nofun

/-! The moves of the sequencer. -/

/-- Every move of the sequencer keeps the invariant (R313). -/
theorem seqMove_inv {s t : State} (h : s.inv = true) (hm : SeqMove s t) : t.inv = true := by
  have hseq := ((inv_iff s).1 h).2.2.2
  cases hm with
  | rest => exact h
  | probe hq hp =>
    simp only [State.seqOk, hq, Bool.and_eq_true, decide_eq_true_eq] at hseq
    obtain ⟨hw, hatt⟩ := hseq
    exact ackProbed_inv (inProgress_of_inv (s := s.afterCall _) h (by simp [hq])) hw hatt _
  | status hq hp =>
    simp only [State.seqOk, hq, Bool.and_eq_true, Bool.or_eq_true] at hseq
    exact statusAnswered_inv (inProgress_of_inv (s := s.afterCall _) h (by simp [hq]))
      (hseq.imp And.left And.left) _
  | page hq hp payload hr =>
    simp only [State.seqOk, hq] at hseq
    exact pageSent_inv (inProgress_of_inv (s := s.afterCall _) h (by simp [hq])) hseq _ _
  | readProbe hq hp =>
    simp only [State.seqOk, hq] at hseq
    exact rdProbed_inv (inProgress_of_inv (s := s.afterCall _) h (by simp [hq])) hseq _
  | bulk hq hp =>
    simp only [State.seqOk, hq] at hseq
    exact bulkAnswered_inv (inProgress_of_inv (s := s.afterCall _) h (by simp [hq])) hseq
      fun b hb => (answer_bytes_le hb).1 _ _ rfl
  | enable hq => exact (inProgress_of_inv (s := s.afterCall _) h (by simp [hq])).inv_finish (by split_ifs <;> nofun)
  | write hq d hd =>
    simp only [State.seqOk, hq] at hseq
    exact writeCommandAnswered_inv (inProgress_of_inv (s := s.afterCall _) h (by simp [hq])) hseq _
  | poll hq =>
    simp only [State.seqOk, hq, Bool.and_eq_true, decide_eq_true_eq] at hseq
    obtain ⟨hw, hatt⟩ := hseq
    exact pollAnswered_inv (inProgress_of_inv (s := s.afterCall _) h (by simp [hq])) hw hatt _
  | cleanup hq =>
    simp only [State.seqOk, hq, Bool.and_eq_true] at hseq
    obtain ⟨⟨hw, -⟩, ho⟩ := hseq
    exact cleanupAnswered_inv (inProgress_of_inv (s := s.afterCall _) h (by simp [hq])) hw ho _
  | read hq =>
    simp only [State.seqOk, hq] at hseq
    exact readAnswered_inv (inProgress_of_inv (s := s.afterCall _) h (by simp [hq])) hseq _
  | nextUnit hq =>
    simp only [State.seqOk, hq] at hseq
    exact nextUnit_inv (inProgress_of_inv h (by simp [hq])) hseq
  | backlog hq hw =>
    simp only [State.seqOk, hq, Bool.and_eq_true, decide_eq_true_eq] at hseq
    obtain ⟨⟨⟨hf, hlt⟩, -⟩, hatt⟩ := hseq
    exact rxPolled_inv (inProgress_of_inv (s := s.afterCall _) h (by simp [hq])) hq hf hlt (hatt hw) _
  | burst hq hw =>
    simp only [State.seqOk, hq, Bool.and_eq_true, decide_eq_true_eq] at hseq
    obtain ⟨⟨⟨hf, -⟩, hwant⟩, -⟩ := hseq
    exact rxRead_inv (inProgress_of_inv (s := s.afterCall _) h (by simp [hq])) hf
      fun b hb => ((answer_bytes_le hb).2 _ rfl).trans hwant
  | transform hq =>
    simp only [State.seqOk, hq, Bool.and_eq_true, decide_eq_true_eq] at hseq
    obtain ⟨hf, hfull⟩ := hseq
    exact transformed_inv (inProgress_of_inv h (by simp [hq])) hf hfull
  | delayPre hq hp =>
    simp only [State.seqOk, hq] at hseq
    have hi := inProgress_of_inv h (by simp [hq])
    refine State.InProgress.inv hi.update (by simp [State.preDelayed, hq]) ?_
    simp only [State.seqOk, State.preDelayed, afterDelay_seq, hq]
    exact hseq
  | reply hq hp bytes hr =>
    simp only [State.seqOk, hq, Bool.and_eq_true, decide_eq_true_eq] at hseq
    obtain ⟨hf, hfull⟩ := hseq
    exact replied_inv (inProgress_of_inv (s := s.afterCall _) h (by simp [hq])) hq hf hfull _ _
  | delayPost hq hp => exact (inProgress_of_inv (s := s.afterDelay _) h (by simp [hq])).inv_finish nofun

end Sys2Proof.Machine
end

section
/-!
PROOFS. The issue of a command (spec/10_state.md R23, R26, R31, spec/44_common_semantics.md R318): every command is its
launch premise, its precondition and its body; and what a command is after its issue: ended at once, or at its first
sequencer state.
-/

namespace Sys2Proof.Machine

open Sys2Proof

/-! The parts of a command. -/

/-- The precondition on the registers (R25, R233). -/
def checkOf : Instr → ParamRegs → Bool
  | .pgwrite => ParamRegs.pgwriteLegal
  | .pgread => ParamRegs.pgreadLegal
  | .swrite | .sread => ParamRegs.saddrLegal
  | .ssweepw | .ssweepr => ParamRegs.devSizeLegal
  | .rxframe => ParamRegs.rxTargetLegal
  | _ => fun _ => true

/-- The launch premise that is missing, if one is (R39, R275). -/
def missingOf (i : Instr) (s : State) : Option Fault :=
  match i with
  | .waitrdy => s.launchFault (decide (0 < s.regs.retryLimit.toNat)) 0
  | .pgwrite =>
    if s.regs.pgwriteLegal then s.launchFault (decide (0 < s.regs.len.toNat)) s.regs.len.toNat else none
  | .pgread => if s.regs.pgreadLegal then s.launchFault true 0 else none
  | .ssweepw => if s.regs.devSizeLegal then s.launchFault false s.regs.devSize.toNat else none
  | _ => none

/-- What a command does with the started state when its precondition holds. -/
def bodyOf : Instr → State → State
  | .nop => fun t => State.finish { t with res.lastStatus := 0, lastStatusWritten := true } .success
  | .waitrdy => State.ackBegin
  | .pgwrite => fun t => if t.latch.pageCount = 0 then t.finish .success else { t with seq := .pgSend }
  | .pgread => fun t => { t with seq := .rdProbe }
  | .sewen => fun t => { t with seq := .enableWrites }
  | .swrite => fun t => { t with seq := .wrCmd }
  | .sread => fun t => { t with seq := .rdCmd }
  | .ssweepw | .ssweepr => State.sweepBegin
  | .rxframe => State.rxPollAgain
  | _ => id

/-- The meaning of every command is the issue of these three parts. -/
theorem exec_command {i : Instr} (hi : i ∈ commandList) (s : State) :
    exec i s = issue i.code (missingOf i s) (fun t => t.checked (checkOf i t.latch) (bodyOf i)) s := by
  revert i
  simp only [commandList, List.forall_mem_cons]
  exact ⟨rfl, rfl, rfl, rfl, rfl, rfl, rfl, rfl, rfl, rfl, nofun⟩

/-- A register is nonzero exactly when its number is positive. -/
theorem toNat_pos_iff {w : Nat} (x : BitVec w) : 0 < x.toNat ↔ x ≠ 0 := by
  rw [Nat.pos_iff_ne_zero, Ne, Ne, ← BitVec.toNat_inj]
  simp

/-- The precondition fails exactly on the violating values of R233. -/
theorem checkOf_iff (i : Instr) (r : ParamRegs) : checkOf i r = true ↔ ¬ violates r i := by
  have hzero : ∀ {w : Nat} (x : BitVec w), x = 0 ↔ ¬ 1 ≤ x.toNat := fun x => by
    rw [Nat.one_le_iff_ne_zero, ← Nat.pos_iff_ne_zero, toNat_pos_iff, not_not]
  cases i with
  | pgwrite => simp only [checkOf, pgwriteLegal_iff, violates, hzero]; omega
  | pgread => simp only [checkOf, pgreadLegal_iff, violates, hzero]; omega
  | swrite | sread => simp only [checkOf, saddrLegal_iff, violates]; omega
  | ssweepw | ssweepr => simp only [checkOf, devSizeLegal_iff, violates, hzero]; omega
  | rxframe => simp only [checkOf, rxTargetLegal_iff, violates, hzero]; omega
  | _ => simp only [checkOf, violates, not_false_eq_true]

/-- No launch premise is missing exactly when the command is launched as R275 asks (log 10). -/
theorem missingOf_eq_none_iff (i : Instr) (s : State) : missingOf i s = none ↔ launchable s i := by
  cases i with
  | waitrdy => simp [missingOf, launchFault_none, launchable, toNat_pos_iff, dbufRead]
  | pgwrite =>
    simp only [missingOf, launchable, ← checkOf_iff, checkOf]
    split_ifs with hl
    · rw [launchFault_none, decide_eq_true_eq, toNat_pos_iff]
      by_cases hz : s.regs.len = 0
      · simp [hz, dbufRead]
      · have hz' : s.regs.len ≠ 0 := hz
        simp only [hl, hz', ne_eq, not_false_eq_true, forall_const]
    · simp [hl]
  | pgread =>
    simp only [missingOf, launchable, ← checkOf_iff, checkOf]
    split_ifs with hl <;> simp [hl, launchFault_none, dbufRead]
  | ssweepw =>
    simp only [missingOf, launchable, ← checkOf_iff, checkOf]
    split_ifs with hl <;> simp [hl, launchFault_none]
  | _ => simp [missingOf, launchable]

/-- A command whose precondition fails has no launch premise (R151, R186). -/
theorem launchable_of_violates {s : State} {i : Instr} (h : violates s.regs i) : launchable s i := by
  cases i <;> simp_all [launchable, violates]

/-- A command issued while BUSY = 0 with its launch premise met: its body runs, or its precondition has failed. -/
theorem exec_command_of_launchable {i : Instr} (hi : i ∈ commandList) {s : State} (hb : s.busy = false)
    (hl : launchable s i) :
    exec i s = .next (if checkOf i s.regs then bodyOf i (s.start i.code)
      else (s.start i.code).finish .protocolViolation) := by
  rw [exec_command hi, (missingOf_eq_none_iff i s).2 hl, issue_of_idle hb]
  rfl

theorem mem_commandList_of_violates {r : ParamRegs} {i : Instr} (h : violates r i) : i ∈ commandList := by
  cases i <;> simp_all [violates, commandList]

/-- A failed precondition ends the command at its issue (R233). -/
theorem exec_of_violates {s : State} {i : Instr} (hb : s.busy = false) (hv : violates s.regs i) :
    exec i s = .next ((s.start i.code).finish .protocolViolation) := by
  rw [exec_command_of_launchable (mem_commandList_of_violates hv) hb (launchable_of_violates hv),
    if_neg (by rw [checkOf_iff]; exact not_not_intro hv)]

/-! What the body does with the started state. -/

/-- The kind with which a limit or a length of 0 ends the command at its issue (R136, R157 (a), R216). -/
def zeroLimit (r : ParamRegs) : Instr → Option Kind
  | .waitrdy => if r.retryLimit = 0 then some .busyTimeout else none
  | .pgwrite => if r.len = 0 then some .success else none
  | .rxframe => if r.rxPollLimit = 0 then some .busyTimeout else none
  | _ => none

/-- The first sequencer state (R313). -/
def firstSeq : Instr → Seq
  | .waitrdy => .ackProbe
  | .pgwrite => .pgSend
  | .pgread => .rdProbe
  | .sewen => .enableWrites
  | .swrite => .wrCmd
  | .sread => .rdCmd
  | .ssweepw | .ssweepr => .sweepNext
  | .rxframe => .receiving
  | _ => .idle

/-- UNITSTAT after the issue: the sweeps clear it (R187, R188). -/
def firstUnitstat (s : State) : Instr → Memory
  | .ssweepw | .ssweepr => []
  | _ => s.unitstat

/-- The state of a command at its first sequencer state. -/
def State.entered (s : State) (i : Instr) : State :=
  { s.start i.code with seq := firstSeq i, unitstat := firstUnitstat s i }

/-- A legal PGWRITE has no page exactly when it has no byte (R152). -/
theorem pageCount_eq_zero_iff {r : ParamRegs} (h : r.pgwriteLegal = true) : r.pageCount = 0 ↔ r.len = 0 := by
  obtain ⟨hsize, -, -⟩ := (pgwriteLegal_iff r).1 h
  have hmul := pageCount_mul r h
  rw [← BitVec.toNat_inj, BitVec.ofNat_eq_ofNat, BitVec.toNat_ofNat, Nat.zero_mod, ← hmul, Nat.mul_eq_zero]
  omega

/-- With no attempt allowed the wait of WAITRDY ends as it begins, and it has no result but its kind (R136). -/
theorem ackBegin_start_of_zero {s : State} (h : s.regs.retryLimit = 0) :
    (s.start Instr.waitrdy.code).ackBegin = (s.start Instr.waitrdy.code).finish .busyTimeout := by
  have hlim : s.regs.retryLimit.toNat = 0 := by rw [h]; rfl
  simp [State.ackBegin, State.ackEnd, hlim, State.inPgwrite, Instr.code, State.finish, State.ackResults, State.start,
    ResultRegs.cleared, ResultRegs.reset, flagsWithValid]

theorem bodyOf_of_zeroLimit {s : State} {i : Instr} {k : Kind} (hc : checkOf i s.regs = true)
    (hz : zeroLimit s.regs i = some k) : bodyOf i (s.start i.code) = (s.start i.code).finish k := by
  cases i with
  | waitrdy =>
    simp only [zeroLimit, Option.ite_none_right_eq_some, Option.some.injEq] at hz
    obtain ⟨hz, rfl⟩ := hz
    exact ackBegin_start_of_zero hz
  | pgwrite =>
    simp only [zeroLimit, Option.ite_none_right_eq_some, Option.some.injEq] at hz
    obtain ⟨hz, rfl⟩ := hz
    exact if_pos ((pageCount_eq_zero_iff hc).2 hz)
  | rxframe =>
    simp only [zeroLimit, Option.ite_none_right_eq_some, Option.some.injEq] at hz
    obtain ⟨hz, rfl⟩ := hz
    have hlim : ¬ 0 < s.regs.rxPollLimit.toNat := by rw [hz]; decide
    exact if_neg hlim
  | _ => cases hz

theorem bodyOf_of_firstSeq {s : State} {i : Instr} (hi : i ∈ commandList) (hn : i ≠ .nop) (hc : checkOf i s.regs = true)
    (hz : zeroLimit s.regs i = none) : bodyOf i (s.start i.code) = s.entered i := by
  cases i with
  | nop => exact absurd rfl hn
  | waitrdy => exact if_pos ((toNat_pos_iff _).2 (by simpa [zeroLimit] using hz))
  | pgwrite => exact if_neg ((pageCount_eq_zero_iff hc).not.2 (by simpa [zeroLimit] using hz))
  | rxframe => exact if_pos ((toNat_pos_iff _).2 (by simpa [zeroLimit] using hz))
  | pgread | sewen | swrite | sread | ssweepw | ssweepr => rfl
  | _ => exact absurd hi (by simp [commandList])

/-! What a command is after its issue. -/

/-- The states that the issue of a command leads to. -/
inductive Issued (s : State) (i : Instr) : State → Prop where
  /-- NOP has ended (R92). -/
  | nop (h : i = .nop) :
      Issued s i (State.finish { s.start i.code with res.lastStatus := 0, lastStatusWritten := true } .success)
  /-- The command has ended with nothing but its kind: its precondition failed, or a limit of 0 allows nothing. -/
  | ended (k : Kind) (hk : k ≠ .partialFailure) (hn : i ≠ .nop) : Issued s i ((s.start i.code).finish k)
  /-- The command runs. -/
  | entered (hn : i ≠ .nop) (hc : checkOf i s.regs = true) (hz : zeroLimit s.regs i = none) (hl : launchable s i) :
      Issued s i (s.entered i)

/-- A command that is launched as R275 asks completes its issue. -/
theorem issued_of_launchable {s : State} {i : Instr} (hi : i ∈ commandList) (hb : s.busy = false) (hl : launchable s i) :
    ∃ t, exec i s = .next t ∧ Issued s i t := by
  refine ⟨_, exec_command_of_launchable hi hb hl, ?_⟩
  by_cases hn : i = .nop
  · subst hn
    exact .nop rfl
  split_ifs with hc
  · cases hz : zeroLimit s.regs i with
    | none =>
      rw [bodyOf_of_firstSeq hi hn hc hz]
      exact .entered hn hc hz hl
    | some k =>
      rw [bodyOf_of_zeroLimit hc hz]
      refine .ended k ?_ hn
      rintro rfl
      cases i <;> simp [zeroLimit] at hz
  · exact .ended _ nofun hn

/-- A command completes its issue only while BUSY = 0 and launched as R275 asks (R23, R281). -/
theorem exec_command_next {s t : State} {i : Instr} (hi : i ∈ commandList) (h : exec i s = .next t) :
    s.busy = false ∧ launchable s i ∧ Issued s i t := by
  obtain ⟨hb, hm, -⟩ := issue_next.1 ((exec_command hi s).symm.trans h)
  have hl := (missingOf_eq_none_iff i s).1 hm
  obtain ⟨u, hu, hissued⟩ := issued_of_launchable hi hb hl
  rw [h] at hu
  cases hu
  exact ⟨hb, hl, hissued⟩

/-! The statements about the issue. -/

/-- Settles O28: the issue tests BUSY before anything else. -/
theorem commandIssueWhileBusyFaults : Obligations.CommandIssueWhileBusyFaults := by
  intro s i hi hb
  rw [exec_command hi]
  exact if_pos hb

/-- Settles O30: NOP is a start, the clearing of LAST_STATUS, and an end with Success. -/
theorem nopSucceedsAtOnce : Obligations.NopSucceedsAtOnce := by
  intro s hb
  have hflags : flagsAtEnd 0x00 .success = 0x01 := by decide
  have hend : exec .nop s = .next (bodyOf .nop (s.start 0x00)) :=
    exec_command_of_launchable (i := .nop) (by decide) hb trivial
  rw [hend, ← hflags]
  rfl

/-- Settles O31: a start, and an end with ProtocolViolation. -/
theorem failedPreconditionIsProtocolViolation : Obligations.FailedPreconditionIsProtocolViolation := by
  intro s i hb hv
  rw [exec_of_violates hb hv, finish_start_eq]
  rfl

/-- Settles O32: the precondition holds and no limit is 0, so each body enters its first state. -/
theorem legalCommandsEnterTheirFirstState : Obligations.LegalCommandsEnterTheirFirstState := by
  intro s hb
  have enters : ∀ i ∈ commandList, i ≠ .nop → ¬ violates s.regs i → zeroLimit s.regs i = none → launchable s i →
      exec i s = .next (s.entered i) := by
    intro i hi hn hv hz hl
    have hc := (checkOf_iff i s.regs).2 hv
    rw [exec_command_of_launchable hi hb hl, if_pos hc, bodyOf_of_firstSeq hi hn hc hz]
  refine ⟨fun hlim hl => ?_, fun hv hlen hl => ?_, fun hv hl => ?_, ?_, fun hv => ?_, fun hv => ?_, fun hv hl => ?_,
    fun hv => ?_, fun hv hlim => ?_⟩
  · exact enters .waitrdy (by decide) nofun id (if_neg hlim) hl
  · exact enters .pgwrite (by decide) nofun hv (if_neg hlen) hl
  · exact enters .pgread (by decide) nofun hv rfl hl
  · exact enters .sewen (by decide) nofun id rfl trivial
  · exact enters .swrite (by decide) nofun hv rfl trivial
  · exact enters .sread (by decide) nofun hv rfl trivial
  · exact enters .ssweepw (by decide) nofun hv rfl hl
  · exact enters .ssweepr (by decide) nofun hv rfl trivial
  · exact enters .rxframe (by decide) nofun hv (if_neg hlim) trivial

/-- Settles O33: with nothing to do there is no launch premise either, and the body ends the started command. -/
theorem zeroLimitsEndAtOnce : Obligations.ZeroLimitsEndAtOnce := by
  intro s hb
  have ends : ∀ (i : Instr) (k : Kind), i ∈ commandList → ¬ violates s.regs i → zeroLimit s.regs i = some k →
      launchable s i → exec i s = .next ((s.start i.code).finish k) := by
    intro i k hi hv hz hl
    have hc := (checkOf_iff i s.regs).2 hv
    rw [exec_command_of_launchable hi hb hl, if_pos hc, bodyOf_of_zeroLimit hc hz]
  refine ⟨fun hz => ?_, fun hv hz => ?_, fun hv hz => ?_⟩
  · exact ⟨_, ends .waitrdy .busyTimeout (by decide) id (if_pos hz) (fun hne => absurd hz hne), rfl, rfl,
      res_of_finish_start _ _ _⟩
  · exact ⟨_, ends .pgwrite .success (by decide) hv (if_pos hz) (fun _ hne => absurd hz hne), rfl, rfl,
      res_of_finish_start _ _ _⟩
  · exact ⟨_, ends .rxframe .busyTimeout (by decide) hv (if_pos hz) trivial, rfl, rfl, res_of_finish_start _ _ _⟩

/-- Every command but NOP stands at a state of its own when it has entered it. -/
theorem firstSeq_ne_idle {i : Instr} (hi : i ∈ commandList) (hn : i ≠ .nop) : firstSeq i ≠ .idle := by
  revert i
  simp only [commandList, List.forall_mem_cons]
  exact ⟨fun h => absurd rfl h, nofun, nofun, nofun, nofun, nofun, nofun, nofun, nofun, nofun, nofun⟩

/-- The bit LAST_STATUS_VALID is 0 from the start of a command on, until a wait sets it (R26). -/
theorem flagsAtEnd_zero_getLsbD_one (k : Kind) : (flagsAtEnd 0x00 k).getLsbD 1 = false := by
  cases k <;> decide

/-- Settles O27: whether the command has ended or entered its first state, its fields are those of the start. -/
theorem everyCommandStarts : Obligations.EveryCommandStarts := by
  intro s i hi hb hl
  obtain ⟨t, ht, hissued⟩ := issued_of_launchable hi hb hl
  refine ⟨t, ht, ?_⟩
  cases hissued with
  | nop hn =>
    exact ⟨rfl, rfl, rfl, rfl, rfl, rfl, rfl, rfl, rfl, rfl, rfl, rfl, rfl, rfl, rfl, rfl, fun h => absurd hn h,
      flagsAtEnd_zero_getLsbD_one .success, .inr ⟨rfl, rfl⟩⟩
  | ended k hk hn =>
    exact ⟨rfl, rfl, rfl, rfl, rfl, rfl, rfl, rfl, rfl, rfl, rfl, rfl, rfl, rfl, rfl, rfl, fun _ => rfl,
      flagsAtEnd_zero_getLsbD_one k, .inr ⟨rfl, rfl⟩⟩
  | entered hn hc hz hl =>
    exact ⟨rfl, rfl, rfl, rfl, rfl, rfl, rfl, rfl, rfl, rfl, rfl, rfl, rfl, rfl, rfl, rfl, fun _ => rfl,
      BitVec.getLsbD_zero, .inl ⟨rfl, firstSeq_ne_idle hi hn, rfl⟩⟩

end Sys2Proof.Machine
end

section
/-!
PROOFS. The wire frames (spec/20_memory.md R71 to R79, spec/70_reset_and_hazards.md R282): which frame belongs to which
sequencer state, a frame of the host's own between commands, and a frame out of turn.
-/

namespace Sys2Proof.Machine

open Sys2Proof

/-! A transceive and its answer (R34, R73, R76). -/

/-- The answers of a transceive's shape are the replies of its length. -/
theorem shapeOk_transceive_iff {p : List Byte} {d : Bool} {a : Answer} :
    shapeOk (.transceive p d) a = true ↔ isReplyOf p.length a := by
  cases a <;> simp [shapeOk, isReplyOf, and_comm]

/-- Where SEL stands after a transceive that was answered with a reply. -/
def Sel.ofDeassert (deassert : Bool) : Sel := if deassert then .deasserted else .asserted

theorem afterCall_of_reply {s : State} {a : Answer} {rest : List Answer} {p : List Byte} {d : Bool}
    (h : s.answers = a :: rest) (ha : isReplyOf p.length a) :
    s.afterCall (.transceive p d) = { s with
      answers := rest, hist := s.hist ++ [.call (.transceive p d) a], sel := Sel.ofDeassert d } := by
  have hshape := shapeOk_transceive_iff (d := d).2 ha
  obtain ⟨r, n, -, -, rfl⟩ := ha
  rw [afterCall_cons h, answer_cons h hshape]
  cases d <;> rfl

theorem afterCall_of_not_reply {s : State} {a : Answer} {rest : List Answer} {p : List Byte} {d : Bool}
    (h : s.answers = a :: rest) (ha : ¬ isReplyOf p.length a) :
    s.afterCall (.transceive p d) = { s with
      answers := rest, hist := s.hist ++ [.call (.transceive p d) a], sel := .unknown } := by
  have hshape := Bool.eq_false_iff.2 (shapeOk_transceive_iff (d := d).not.2 ha)
  rw [afterCall_cons h, answer_cons_misshapen h hshape]
  cases d <;> rfl

/-- A call that is no transceive does not move SEL. -/
theorem afterCall_of_not_transceive {s : State} {a : Answer} {rest : List Answer} {c : Call} (h : s.answers = a :: rest)
    (hc : ∀ p d, c ≠ .transceive p d) :
    s.afterCall c = { s with answers := rest, hist := s.hist ++ [.call c a] } := by
  have hsel : selAfter c (s.answer c) s.sel = s.sel := by
    cases c with
    | transceive p d => exact absurd rfl (hc p d)
    | _ => rfl
  rw [afterCall_cons h, hsel]

/-! Frames of the host's own. -/

/-- The state after a frame of the host's own: its connection's one call (R282, R288; log 17), and nothing for a reply,
which is no call. -/
def State.ownCall (s : State) (i : Instr) : State :=
  match i.format with
  | .i2c => s.ownPeerRead.afterCall (.write s.ownPeer (encode i))
  | .serial => s.afterCall (.transceive (encode i) (decide (i ≠ .serPoll)))
  | .slave => s.afterCall (.slaveWrite (encode i))
  | .serialReply | .command => s

theorem handFrame_of_idle {c : Call} {turn : Bool} {k : Answer → State → State} {s : State} (ht : turn = false)
    (hq : s.seq = .idle) : handFrame c turn k s = .next (s.afterCall c) := handFrame_next.2 (.inr ⟨ht, hq, rfl⟩)

theorem handI2c_of_idle {payload : List Byte} {turn : Bool} {k : Answer → State → State} {s : State} (ht : turn = false)
    (hq : s.seq = .idle) :
    handI2c payload turn k s = .next (s.ownPeerRead.afterCall (.write s.ownPeer payload)) :=
  handI2c_next.2 (.inr ⟨ht, hq, rfl⟩)

/-- With no command running every frame is the host's own call. -/
theorem exec_of_idle {s : State} {i : Instr} (hi : i.format ≠ .command) (hq : s.seq = .idle) :
    exec i s = .next (s.ownCall i) := by
  cases i with
  | i2cProbe | i2cPage start payload => exact handI2c_of_idle (by simp [hq]) hq
  | serEwen | serWrite a d | serRead a | serPoll | serIdle => exact handFrame_of_idle (by simp [hq]) hq
  | slaveFrame bytes => exact handFrame_of_idle (by simp [hq]) hq
  | serReadReply v => exact if_neg (by simp [hq])
  | _ => exact absurd rfl hi

theorem handFrame_out_of_turn {c : Call} {turn : Bool} {k : Answer → State → State} {s : State} (ht : turn = false)
    (hq : s.seq ≠ .idle) : handFrame c turn k s = .refused .frameOutOfTurn := by
  simp [handFrame, ht, hq]

theorem handI2c_out_of_turn {payload : List Byte} {turn : Bool} {k : Answer → State → State} {s : State}
    (ht : turn = false) (hq : s.seq ≠ .idle) : handI2c payload turn k s = .refused .frameOutOfTurn := by
  simp only [handI2c, ht, Bool.false_eq_true, if_false]
  exact handFrame_out_of_turn rfl hq

/-- While a command runs a frame at which SEQ does not stand is refused by name (R79, R282). -/
theorem exec_out_of_turn {s : State} {i : Instr} (hi : i.format ≠ .command) (hr : i.format ≠ .serialReply)
    (hq : s.seq ≠ .idle) (ht : ¬ atTurn s i) : exec i s = .refused .frameOutOfTurn := by
  cases i with
  | i2cProbe | i2cPage start payload => exact handI2c_out_of_turn (decide_eq_false ht) hq
  | serEwen | serWrite a d | serRead a | serPoll | serIdle | slaveFrame bytes =>
    exact handFrame_out_of_turn (decide_eq_false ht) hq
  | serReadReply v => exact absurd rfl hr
  | _ => exact absurd rfl hi

/-- Settles O43: between commands each connection's frames are its one call; during one a frame out of turn is refused. -/
theorem directFrameOnlyRecordsTheCall : Obligations.DirectFrameOnlyRecordsTheCall := by
  refine ⟨?reply, ?noReply, ?i2c, ?slave, fun s i hq hi hr ht => exec_out_of_turn hi hr hq ht⟩
  case reply =>
    intro s i r n rest hq hf hlen hn ha
    rw [exec_of_idle (by rw [hf]; nofun) hq, State.ownCall, hf]
    dsimp only
    rw [afterCall_of_reply ha ⟨r, n, hlen, hlen ▸ hn, rfl⟩, Sel.ofDeassert]
    by_cases hp : i = .serPoll <;> simp [hp]
  case noReply =>
    intro s i a rest hq hf hbad ha
    rw [exec_of_idle (by rw [hf]; nofun) hq, State.ownCall, hf]
    dsimp only
    rw [afterCall_of_not_reply ha hbad]
  case i2c =>
    intro s i a rest hq hf ha
    rw [exec_of_idle (by rw [hf]; nofun) hq, State.ownCall, hf]
    dsimp only
    refine ⟨fun hp => ?_, fun hp => ?_⟩
    · obtain ⟨hpeer, hread⟩ := ownPeer_of_written hp
      rw [hpeer, hread, afterCall_of_not_transceive ha (by simp)]
    · obtain ⟨hpeer, hread⟩ := ownPeer_of_unwritten hp
      rw [hpeer, hread, afterCall_of_not_transceive (s := { s with draws := s.draws + 1 }) ha (by simp)]
  case slave =>
    intro s bytes a rest hq ha
    rw [exec_of_idle (by simp [Instr.format]) hq]
    exact congrArg _ (afterCall_of_not_transceive ha fun _ _ => nofun)

end Sys2Proof.Machine
end

section
/-!
PROOFS. What every step keeps (spec/00_scope.md R3, spec/44_common_semantics.md R312 to R317): the invariant, the one event a
step can add, the context that a running command leaves alone, the transition table, the select signal, and that a running
command is never refused.
-/

namespace Sys2Proof.Machine

open Sys2Proof

/-! The reset state. -/

/-- Settles O12: at reset SEQ is Idle, STATUS 0, every buffer empty and every result 0. -/
theorem resetMeetsTheInvariants : Obligations.ResetMeetsTheInvariants := by
  refine ⟨(inv_iff _).2 ⟨?_, ?_, ?_, rfl⟩, rfl⟩
  · exact (statusOk_iff _).2 (.inr ⟨.inl rfl, rfl⟩)
  · exact (buffersOk_iff _).2 wf_reset
  · exact (resultsOk_iff _).2 (by decide)

/-! The host's acts keep the invariant. -/

theorem lowTwoBits_zero : lowTwoBits 0x00 = 0x00 := by decide

theorem inProgress_start {s : State} (h : s.inv = true) (code : Byte) : (s.start code).InProgress :=
  ⟨rfl, ((inv_iff s).1 h).2.1, rfl, rfl, lowTwoBits_zero⟩

/-- A reception lacks bytes, asks for no more than it lacks, and polls only while the bound allows it (R213, R214). -/
theorem seqOk_receiving_iff {s : State} (hq : s.seq = .receiving) :
    s.seqOk = true ↔ s.onFrame = true ∧ s.filled < s.latch.rxTarget.toNat ∧
      s.want ≤ s.latch.rxTarget.toNat - s.filled ∧ (s.want = 0 → s.att < s.latch.rxPollLimit.toNat) := by
  simp only [State.seqOk, hq, Bool.and_eq_true, decide_eq_true_eq, and_assoc]

/-- The first state of every command is one of its own, with its counters below their bounds (R27, R28). -/
theorem seqOk_entered {s : State} {i : Instr} (hi : i ∈ commandList) (hn : i ≠ .nop) (hc : checkOf i s.regs = true)
    (hz : zeroLimit s.regs i = none) (hl : launchable s i) : (s.entered i).seqOk = true := by
  have hlog : ∀ u : State, u.fails = 0 → u.first = none → u.sweepLogOk = true := fun u hf h1 =>
    (sweepLogOk_iff u).2 ⟨by omega, by simp [hf, h1], by simp [h1]⟩
  have hv := (checkOf_iff i s.regs).1 hc
  cases i with
  | nop => exact absurd rfl hn
  | waitrdy =>
    have hlim : s.regs.retryLimit ≠ 0 := by simpa [zeroLimit] using hz
    exact Bool.and_eq_true_iff.2 ⟨(onWait_iff _).2 (.inl ⟨rfl, hl hlim⟩), decide_eq_true ((toNat_pos_iff _).2 hlim)⟩
  | pgwrite =>
    have hlen : s.regs.len ≠ 0 := by simpa [zeroLimit] using hz
    obtain ⟨hpeer, hdata⟩ := hl hv hlen
    exact (onPage_iff _).2 ⟨rfl, hc, Nat.pos_of_ne_zero ((pageCount_eq_zero_iff hc).not.2 hlen), hpeer, hdata⟩
  | pgread => exact (onPgread_iff _).2 ⟨rfl, hc, hl hv⟩
  | sewen => rfl
  | swrite => exact (onWrite_iff _).2 (.inl ⟨rfl, hc⟩)
  | sread => exact (onRead_iff _).2 (.inl ⟨rfl, hc⟩)
  | ssweepw =>
    exact (onSweep_iff _).2 ⟨.inl ⟨rfl, hl hv⟩, hc, ((devSizeLegal_iff _).1 hc).1, hlog _ rfl rfl⟩
  | ssweepr => exact (onSweep_iff _).2 ⟨.inr rfl, hc, ((devSizeLegal_iff _).1 hc).1, hlog _ rfl rfl⟩
  | rxframe =>
    have hlim : s.regs.rxPollLimit ≠ 0 := by simpa [zeroLimit] using hz
    have hframe : (s.entered .rxframe).onFrame = true :=
      (onFrame_iff _).2 ⟨rfl, hc, Nat.zero_le _, Nat.zero_le _, rfl⟩
    exact (seqOk_receiving_iff rfl).2
      ⟨hframe, ((rxTargetLegal_iff _).1 hc).1, Nat.zero_le _, fun _ => (toNat_pos_iff _).2 hlim⟩
  | _ => exact absurd hi (by simp [commandList])

/-- The issue of every command keeps the invariant. -/
theorem issued_inv {s t : State} {i : Instr} (h : s.inv = true) (hi : i ∈ commandList) (ht : Issued s i t) :
    t.inv = true := by
  have hstart := inProgress_start h i.code
  cases ht with
  | nop =>
    exact State.InProgress.inv_finish (s := { s.start i.code with res.lastStatus := 0, lastStatusWritten := true })
      hstart.update nofun
  | ended k hk => exact hstart.inv_finish hk
  | entered hn hc hz hl =>
    obtain ⟨hdbuf, hunit, hxlut⟩ := (buffersOk_iff s).1 hstart.buffers
    refine State.InProgress.inv ⟨rfl, (buffersOk_iff _).2 ⟨hdbuf, ?_, hxlut⟩, rfl, rfl, lowTwoBits_zero⟩
      (firstSeq_ne_idle hi hn) (seqOk_entered hi hn hc hz hl)
    change Memory.wf .unitstat (firstUnitstat s i) = true
    unfold firstUnitstat
    split
    · exact wf_nil _
    · exact wf_nil _
    · exact hunit

/-- What decodes on a connection is a frame of that connection (R107). -/
theorem format_of_decode {c : Connection} {bs : List Byte} {i : Instr} (h : decode c.format bs = .ok i) :
    i.format = c.format := by
  cases c with
  | serialReply =>
    change decodeSerialReply bs = _ at h
    unfold decodeSerialReply at h
    split at h
    · cases h
      rfl
    · cases h
  | _ => exact (decodedBytesAreTheEncoding _ bs i (by simp [Connection.format]) h).2.2

theorem format_ne_command_of_decode {c : Connection} {bs : List Byte} {i : Instr} (h : decode c.format bs = .ok i) :
    i.format ≠ .command := by
  rw [format_of_decode h]
  cases c <;> nofun

theorem ownCall_inv (s : State) (i : Instr) : (s.ownCall i).inv = s.inv := by
  unfold State.ownCall
  split <;> rfl

theorem commandWrite_inv {s t : State} {code : Byte} (h : s.inv = true) (ht : commandWrite code s = .next t) :
    t.inv = true := by
  unfold commandWrite at ht
  split at ht
  next i hd =>
    have hi := (decode_command_eq_ok hd).1
    exact issued_inv h hi (exec_command_next hi ht).2.2
  next =>
    obtain ⟨-, -, rfl⟩ := issue_next.1 ht
    exact (inProgress_start h code).inv_finish nofun

theorem directFrame_inv {s t : State} {c : Connection} {bytes : List Byte} (h : s.inv = true)
    (ht : directFrame c bytes s = .next t) : t.inv = true := by
  unfold directFrame at ht
  split_ifs at ht with hb
  split at ht
  next i hd =>
    rw [exec_of_idle (format_ne_command_of_decode hd) (seq_idle_of_inv h (by simpa using hb))] at ht
    cases ht
    rw [ownCall_inv, h]
  next =>
    rcases handRaw_next c bytes s with hr | ⟨_, hr⟩ | ⟨_, hr⟩ <;> (rw [hr] at ht; cases ht; exact h)

theorem regWritten_inv {s : State} (h : s.inv = true) (hb : s.busy = false) (n : Nat) (v : Word) :
    (s.regWritten n v).inv = true := by
  have hbuf := ((inv_iff s).1 h).2.1
  unfold State.regWritten
  split <;> exact inv_of_idle h hb rfl rfl rfl hbuf

theorem bufWritten_inv {s : State} (h : s.inv = true) (hb : s.busy = false) {sp : BufSpace} {i : Nat} (v : Byte)
    (hi : i < sp.size) : (s.bufWritten sp i v).inv = true := by
  have hbuf := ((inv_iff s).1 h).2.1
  obtain ⟨hdbuf, hunit, hxlut⟩ := (buffersOk_iff s).1 hbuf
  cases sp with
  | dbuf => exact inv_of_idle h hb rfl rfl rfl ((buffersOk_iff _).2 ⟨wf_bufPut _ _ _ _ hdbuf hi, hunit, hxlut⟩)
  | unitstat => exact h
  | xlut => exact inv_of_idle h hb rfl rfl rfl ((buffersOk_iff _).2 ⟨hdbuf, hunit, wf_bufPut _ _ _ _ hxlut hi⟩)

theorem freeRun_inv {s t : State} (h : s.inv = true) (ht : freeRun s = .next t) : t.inv = true := by
  rcases freeRun_next.1 ht with ⟨-, hstep⟩ | ⟨-, rfl⟩
  · exact seqMove_inv h (seqMove_of_next hstep)
  · exact h

/-- Every act of the host keeps the invariant. -/
theorem hostAct_inv {s t : State} {inp : Input} (h : s.inv = true) (ht : hostAct inp s = .next t) : t.inv = true := by
  cases inp with
  | hostRead n => rcases (hostRead_next ht).2 with rfl | rfl <;> exact h
  | hostWrite n v =>
    by_cases hn : n = 0
    · exact commandWrite_inv h ((if_pos hn).symm.trans ht)
    · obtain ⟨hb, rfl⟩ := hostWrite_next.1 ((if_neg hn).symm.trans ht)
      exact regWritten_inv h hb n v
  | bufRead sp i => rcases (hostBufRead_next ht).2.2 with rfl | ⟨_, rfl⟩ <;> exact h
  | bufWrite sp i v =>
    obtain ⟨hb, hi, rfl⟩ := hostBufWrite_next.1 ht
    exact bufWritten_inv h hb v hi
  | wire c bytes => exact directFrame_inv h ht
  | transport c =>
    obtain ⟨-, rfl⟩ := hostTransport_next.1 ht
    exact h
  | waitDone =>
    cases ht
    exact h
  | seqTurn => exact freeRun_inv h ht
  | rst =>
    rw [(resetInput_next ht).1]
    exact resetMeetsTheInvariants.1

/-- Settles O13: a step is a move of the sequencer or an act of the host, and each keeps the invariant. -/
theorem stepKeepsTheInvariant : Obligations.StepKeepsTheInvariant := by
  intro s t h ht
  rcases step_next ht with hfree | ⟨inp, rest, -, hact⟩
  · exact freeRun_inv h hfree
  · exact hostAct_inv (s := { s with inputs := rest }) h hact

/-! One event, and the context that a command leaves alone. -/

/-- `u` is `s` with at most one event more in the history, and what belongs to that event: the script, the free draws and
SEL. -/
inductive AtMostOneEvent (s : State) : State → Prop where
  | none : AtMostOneEvent s s
  | call (c : Call) : AtMostOneEvent s (s.afterCall c)
  | ownPeerCall (c : Call) : AtMostOneEvent s (s.ownPeerRead.afterCall c)
  | delay (d : Word) : AtMostOneEvent s (s.afterDelay d)

/-- The history after at most one event. -/
def GrowsByOne (s t : State) : Prop := t.hist = s.hist ∨ ∃ e, t.hist = s.hist ++ [e]

theorem AtMostOneEvent.grows {s u : State} (h : AtMostOneEvent s u) : GrowsByOne s u := by
  cases h with
  | none => exact .inl rfl
  | call c => exact .inr ⟨_, rfl⟩
  | ownPeerCall c => exact .inr ⟨_, rfl⟩
  | delay d => exact .inr ⟨_, rfl⟩

/-- Beside its event, what a continuation keeps is kept. -/
theorem AtMostOneEvent.kept {s u : State} (h : AtMostOneEvent s u) :
    u.latch = s.latch ∧ u.cmd = s.cmd ∧ u.xlut = s.xlut ∧ u.params = s.params ∧ u.inputs = s.inputs ∧
      u.regs = s.regs := by
  cases h <;> exact ⟨rfl, rfl, rfl, rfl, rfl, rfl⟩

/-- A move of the sequencer is at most one event and a continuation (R313). -/
theorem seqMove_context {s t : State} (h : SeqMove s t) : ∃ u, AtMostOneEvent s u ∧ SameContext u t := by
  cases h with
  | rest => exact ⟨_, .none, .refl _⟩
  | probe => exact ⟨_, .call _, ackProbed_same _ _⟩
  | status => exact ⟨_, .call _, statusAnswered_same _ _⟩
  | page => exact ⟨_, .call _, pageSent_same _ _ _⟩
  | readProbe => exact ⟨_, .call _, rdProbed_same _ _⟩
  | bulk => exact ⟨_, .call _, bulkAnswered_same _ _⟩
  | enable => exact ⟨_, .call _, enableAnswered_same _ _⟩
  | write => exact ⟨_, .call _, writeCommandAnswered_same _ _⟩
  | poll => exact ⟨_, .call _, pollAnswered_same _ _⟩
  | cleanup => exact ⟨_, .call _, cleanupAnswered_same _ _⟩
  | read => exact ⟨_, .call _, readAnswered_same _ _⟩
  | nextUnit => exact ⟨_, .none, nextUnit_same _⟩
  | backlog => exact ⟨_, .call _, rxPolled_same _ _⟩
  | burst => exact ⟨_, .call _, rxRead_same _ _⟩
  | transform => exact ⟨_, .none, transformed_same _⟩
  | delayPre => exact ⟨_, .delay _, preDelayed_same _⟩
  | reply => exact ⟨_, .call _, replied_same _ _ _⟩
  | delayPost => exact ⟨_, .delay _, postDelayed_same _⟩

theorem handFrame_context {c : Call} {turn : Bool} {k : Answer → State → State} {s t : State}
    (hk : ∀ a u, SameContext u (k a u)) (h : handFrame c turn k s = .next t) :
    ∃ u, AtMostOneEvent s u ∧ SameContext u t := by
  rcases handFrame_next.1 h with ⟨-, rfl⟩ | ⟨-, -, rfl⟩
  · exact ⟨_, .call c, hk _ _⟩
  · exact ⟨_, .call c, .refl _⟩

theorem handI2c_context {payload : List Byte} {turn : Bool} {k : Answer → State → State} {s t : State}
    (hk : ∀ a u, SameContext u (k a u)) (h : handI2c payload turn k s = .next t) :
    ∃ u, AtMostOneEvent s u ∧ SameContext u t := by
  rcases handI2c_next.1 h with ⟨-, -, rfl⟩ | ⟨-, -, rfl⟩
  · exact ⟨_, .call _, hk _ _⟩
  · exact ⟨_, .ownPeerCall _, .refl _⟩

/-- A frame is at most one event and a continuation, whoever hands it over. -/
theorem exec_frame_context {s t : State} {i : Instr} (hi : i.format ≠ .command) (h : exec i s = .next t) :
    ∃ u, AtMostOneEvent s u ∧ SameContext u t := by
  cases i with
  | i2cProbe => exact handI2c_context probeAnswered_same h
  | i2cPage start payload => exact handI2c_context (pageSent_same _) h
  | serEwen => exact handFrame_context enableAnswered_same h
  | serWrite a d => exact handFrame_context writeCommandAnswered_same h
  | serRead a => exact handFrame_context readAnswered_same h
  | serPoll => exact handFrame_context pollAnswered_same h
  | serIdle => exact handFrame_context cleanupAnswered_same h
  | serReadReply v =>
    change execSerReadReply v s = _ at h
    unfold execSerReadReply at h
    split_ifs at h <;> cases h
    · exact ⟨s, .none, readDone_same s v⟩
    · exact ⟨s, .none, .refl s⟩
  | slaveFrame bytes => exact handFrame_context (replied_same _) h
  | _ => exact absurd rfl hi

theorem GrowsByOne.of_context {s t : State} (h : ∃ u, AtMostOneEvent s u ∧ SameContext u t) : GrowsByOne s t := by
  obtain ⟨u, hu, hsame⟩ := h
  rw [GrowsByOne, hsame.hist]
  exact hu.grows

theorem commandWrite_grows {s t : State} {code : Byte} (ht : commandWrite code s = .next t) : t.hist = s.hist := by
  unfold commandWrite at ht
  split at ht
  next i hd =>
    have hi := (decode_command_eq_ok hd).1
    obtain ⟨-, -, hissued⟩ := exec_command_next hi ht
    cases hissued <;> rfl
  next =>
    obtain ⟨-, -, rfl⟩ := issue_next.1 ht
    rfl

theorem directFrame_grows {s t : State} {c : Connection} {bytes : List Byte} (ht : directFrame c bytes s = .next t) :
    GrowsByOne s t := by
  unfold directFrame at ht
  split_ifs at ht
  split at ht
  next i hd => exact .of_context (exec_frame_context (format_ne_command_of_decode hd) ht)
  next =>
    rcases handRaw_next c bytes s with hr | ⟨c', hr⟩ | ⟨c', hr⟩ <;> (rw [hr] at ht; cases ht)
    · exact .inl rfl
    · exact (AtMostOneEvent.call c').grows
    · exact (AtMostOneEvent.ownPeerCall c').grows

theorem freeRun_grows {s t : State} (ht : freeRun s = .next t) : GrowsByOne s t := by
  rcases freeRun_next.1 ht with ⟨-, hstep⟩ | ⟨-, rfl⟩
  · exact .of_context (seqMove_context (seqMove_of_next hstep))
  · exact .inl rfl

/-- The only act of the host that adds an event is a use of the Transport; the sequencer's turn adds its own. -/
theorem hostAct_grows {s t : State} {inp : Input} (ht : hostAct inp s = .next t) : GrowsByOne s t := by
  cases inp with
  | hostRead n => rcases (hostRead_next ht).2 with rfl | rfl <;> exact .inl rfl
  | hostWrite n v =>
    by_cases hn : n = 0
    · exact .inl (commandWrite_grows ((if_pos hn).symm.trans ht))
    · obtain ⟨-, rfl⟩ := hostWrite_next.1 ((if_neg hn).symm.trans ht)
      refine .inl ?_
      unfold State.regWritten
      split <;> rfl
  | bufRead sp i => rcases (hostBufRead_next ht).2.2 with rfl | ⟨_, rfl⟩ <;> exact .inl rfl
  | bufWrite sp i v =>
    obtain ⟨-, -, rfl⟩ := hostBufWrite_next.1 ht
    cases sp <;> exact .inl rfl
  | wire c bytes => exact directFrame_grows ht
  | transport c =>
    obtain ⟨-, rfl⟩ := hostTransport_next.1 ht
    exact (AtMostOneEvent.call c).grows
  | waitDone =>
    cases ht
    exact .inl rfl
  | seqTurn => exact freeRun_grows ht
  | rst =>
    rw [(resetInput_next ht).1]
    exact .inl rfl

/-- Settles O17: a move of the sequencer is one event at most, and so is an act of the host. -/
theorem oneEventPerStep : Obligations.OneEventPerStep := by
  intro s t ht
  rcases step_next ht with hfree | ⟨inp, rest, -, hact⟩
  · exact freeRun_grows hfree
  · exact hostAct_grows (s := { s with inputs := rest }) hact

/-- Settles O18: neither the event of a move nor its continuation touches these fields. -/
theorem sequencerLeavesTheParametersAlone : Obligations.SequencerLeavesTheParametersAlone := by
  intro s t _ ht
  obtain ⟨u, hu, hsame⟩ := seqMove_context (seqMove_of_next ht)
  obtain ⟨hlatch, hcmd, hxlut, hparams, hinputs, hregs⟩ := hu.kept
  exact ⟨hsame.latch.trans hlatch, hsame.cmd.trans hcmd, hsame.xlut.trans hxlut, hsame.params.trans hparams,
    hsame.inputs.trans hinputs, hregs ▸ hsame.regs⟩

end Sys2Proof.Machine
end

section
/-!
PROOFS. Where the sequencer goes (spec/44_common_semantics.md R313): the sequencer states that each continuation leads to,
the transition table, the select signal between the first poll chunk and the cleanup (spec/42_serial_eeprom.md R184), and
that a running command is never refused (spec/10_state.md R39).
-/

namespace Sys2Proof.Machine

open Sys2Proof

/-! The sequencer states after each continuation. -/

/-- A wait that ends leaves the command at Idle, or at the next page if it was acknowledged (R131, R152). -/
theorem ackEnd_seq (s : State) (k : Kind) :
    (s.ackEnd k).seq = .idle ∨ (s.cmd = 0x02 ∧ k = .success ∧ (s.ackEnd k).seq = .pgSend) := by
  unfold State.ackEnd
  split_ifs with hc hk
  · unfold State.pageDone
    split_ifs
    · exact .inr ⟨(inPgwrite_iff s).1 hc, hk, rfl⟩
    · exact .inl rfl
  · exact .inl rfl
  · exact .inl rfl

theorem ackEnd_seq_of_failure (s : State) {k : Kind} (hk : k ≠ .success) : (s.ackEnd k).seq = .idle := by
  rcases ackEnd_seq s k with h | ⟨-, hs, -⟩
  · exact h
  · exact absurd hs hk

theorem ackBegin_seq (s : State) : s.ackBegin.seq = .ackProbe ∨ s.ackBegin.seq = .idle := by
  unfold State.ackBegin
  dsimp only
  split_ifs
  · exact .inl rfl
  · exact .inr (ackEnd_seq_of_failure _ nofun)

theorem ackRetry_seq (s : State) : s.ackRetry.seq = .ackProbe ∨ s.ackRetry.seq = .idle := by
  unfold State.ackRetry
  split_ifs
  · exact .inl rfl
  · exact .inr (ackEnd_seq_of_failure _ nofun)

theorem ackProbed_seq (a : Answer) (s : State) :
    (State.ackProbed a s).seq = .ackStatus ∨ (State.ackProbed a s).seq = .idle := by
  unfold State.ackProbed
  dsimp only
  split_ifs
  · exact .inl rfl
  · exact .inr (ackEnd_seq_of_failure _ nofun)

theorem ackClassified_seq (c : Byte) (s : State) :
    (State.ackClassified c s).seq = .ackProbe ∨ (State.ackClassified c s).seq = .idle ∨
      (s.cmd = 0x02 ∧ (State.ackClassified c s).seq = .pgSend) := by
  unfold State.ackClassified
  dsimp only
  split
  · rcases ackEnd_seq { s with ackStatus := c, ackValid := true } .success with h | ⟨hc, -, h⟩
    · exact .inr (.inl h)
    · exact .inr (.inr ⟨hc, h⟩)
  all_goals exact (ackRetry_seq { s with ackStatus := c, ackValid := true }).imp_right .inl

/-- A status read of PGREAD leads on to the bulk read or to the end; one of a wait to the next attempt, the next page or the
end (R132, U4). -/
theorem statusAnswered_seq (a : Answer) (s : State) :
    (State.statusAnswered a s).seq = .idle ∨ (s.inPgread = true ∧ (State.statusAnswered a s).seq = .rdBulk) ∨
      (s.inPgread = false ∧ (State.statusAnswered a s).seq = .ackProbe) ∨
      (s.cmd = 0x02 ∧ (State.statusAnswered a s).seq = .pgSend) := by
  unfold State.statusAnswered
  split <;> split_ifs with hc
  · exact .inr (.inl ⟨hc, rfl⟩)
  · rcases ackClassified_seq _ s with h | h | h
    · exact .inr (.inr (.inl ⟨by simpa using hc, h⟩))
    · exact .inl h
    · exact .inr (.inr (.inr h))
  · exact .inl rfl
  · exact .inl (ackEnd_seq_of_failure _ nofun)

theorem pageSent_seq (n : Nat) (a : Answer) (s : State) :
    (State.pageSent n a s).seq = .ackProbe ∨ (State.pageSent n a s).seq = .idle := by
  unfold State.pageSent
  split_ifs
  · exact ackBegin_seq s
  · exact .inr rfl

theorem bulkAnswered_seq (a : Answer) (s : State) : (State.bulkAnswered a s).seq = .idle := by
  unfold State.bulkAnswered
  split <;> rfl

theorem unitEnd_seq (s : State) (k : Kind) : (s.unitEnd k).seq = .sweepNext ∨ (s.unitEnd k).seq = .idle := by
  obtain ⟨-, -, -, -, -, ⟨-, h, -⟩ | ⟨-, h, -⟩⟩ := unitEnd_effect s k
  · exact .inl h
  · exact .inr h

/-- A WriteByte that ends leaves the command at Idle, or in SSWEEPW between two addresses (R174, R187). -/
theorem writeEnd_seq (s : State) (k : Kind) :
    (s.writeEnd k).seq = .idle ∨ (s.cmd = 0x13 ∧ (s.writeEnd k).seq = .sweepNext) := by
  by_cases hc : s.cmd = 0x13
  · rw [writeEnd_of_sweep hc]
    exact (unitEnd_seq _ k).symm.imp_right fun h => ⟨hc, h⟩
  · rw [writeEnd_of_single hc]
    exact .inl rfl

/-- A write command that was answered leads to the poll or the cleanup with no attempt made, or ends the unit (R175). -/
theorem writeCommandAnswered_seq (a : Answer) (s : State) :
    (((State.writeCommandAnswered a s).seq = .wrPoll ∨ (State.writeCommandAnswered a s).seq = .wrCleanup) ∧
      (State.writeCommandAnswered a s).att = 0) ∨
    (State.writeCommandAnswered a s).seq = .idle ∨
    (s.cmd = 0x13 ∧ (State.writeCommandAnswered a s).seq = .sweepNext) := by
  unfold State.writeCommandAnswered
  dsimp only
  split_ifs
  · exact .inl ⟨.inl rfl, rfl⟩
  · exact .inl ⟨.inr rfl, rfl⟩
  · exact .inl ⟨.inr rfl, rfl⟩
  · exact .inr (writeEnd_seq _ _)

/-- A chunk that was answered leads to the next chunk or the cleanup, one attempt made; without all its bytes it is the
cleanup after TransportError (R176). -/
theorem pollAnswered_seq (a : Answer) (s : State) :
    ((State.pollAnswered a s).seq = .wrPoll ∨ (State.pollAnswered a s).seq = .wrCleanup) ∧
      (State.pollAnswered a s).att = s.att + 1 ∧
      (fullReply 10 a = none →
        (State.pollAnswered a s).seq = .wrCleanup ∧ (State.pollAnswered a s).outcome = .transportError) := by
  unfold State.pollAnswered
  dsimp only
  split
  next => exact ⟨.inr rfl, rfl, fun _ => ⟨rfl, rfl⟩⟩
  next r hr =>
    split_ifs
    · exact ⟨.inr rfl, rfl, by simp [hr]⟩
    · exact ⟨.inl rfl, rfl, by simp [hr]⟩
    · exact ⟨.inr rfl, rfl, by simp [hr]⟩

/-- A ReadByte that was answered leaves the command at Idle, or in SSWEEPR between two addresses (R181, R188). -/
theorem readAnswered_seq (a : Answer) (s : State) :
    (State.readAnswered a s).seq = .idle ∨ (s.cmd = 0x14 ∧ (State.readAnswered a s).seq = .sweepNext) := by
  unfold State.readAnswered
  split
  · unfold State.readDone
    split_ifs with hc
    · exact (unitEnd_seq _ _).symm.imp_right fun h => ⟨(inSweepRead_iff s).1 hc, h⟩
    · exact .inl rfl
  · unfold State.readFailed
    split_ifs with hc
    · exact (unitEnd_seq _ _).symm.imp_right fun h => ⟨(inSweepRead_iff s).1 hc, h⟩
    · exact .inl rfl

theorem rxPolled_seq (a : Answer) (s : State) :
    (State.rxPolled a s).seq = .receiving ∨ (State.rxPolled a s).seq = .idle ∨ (State.rxPolled a s).seq = s.seq := by
  unfold State.rxPolled
  dsimp only
  split
  · split_ifs
    · unfold State.rxPollAgain
      split_ifs
      · exact .inl rfl
      · exact .inr (.inl rfl)
    · exact .inr (.inr rfl)
  · exact .inr (.inl rfl)

theorem rxRead_seq (a : Answer) (s : State) :
    (State.rxRead a s).seq = .receiving ∨ (State.rxRead a s).seq = .idle ∨ (State.rxRead a s).seq = .complete := by
  unfold State.rxRead
  dsimp only
  split
  · split_ifs
    · unfold State.rxPollAgain
      split_ifs
      · exact .inl rfl
      · exact .inr (.inl rfl)
    · exact .inr (.inr rfl)
  · exact .inr (.inl rfl)

/-! The transition table. -/

/-- Every move of a running command is an edge of the table (R313). -/
theorem seqMove_edge {s t : State} (h : s.inv = true) (hq0 : s.seq ≠ .idle) (hm : SeqMove s t) :
    seqEdge s.params s.cmd s.seq t.seq = true := by
  have hseq := ((inv_iff s).1 h).2.2.2
  cases hm with
  | rest hq => exact absurd hq hq0
  | probe hq hp =>
    rcases ackProbed_seq (s.answer (.write s.latch.peer (encode .i2cProbe))) (s.afterCall _) with ht | ht <;>
      rw [hq, ht] <;> rfl
  | status hq hp =>
    simp only [State.seqOk, hq, Bool.and_eq_true, Bool.or_eq_true] at hseq
    rcases statusAnswered_seq (s.answer (.getStatus s.latch.peer)) (s.afterCall _) with
      ht | ⟨hc, ht⟩ | ⟨hc, ht⟩ | ⟨hc, ht⟩
    · rw [hq, ht]
      rfl
    · rcases hseq with ⟨hw, -⟩ | ⟨-, hu⟩
      · exact absurd hc (Bool.eq_false_iff.1 (not_inPgread_of_onWait hw))
      · rw [hq, ht]
        exact Bool.and_eq_true_iff.2 ⟨decide_eq_true ((inPgread_iff s).1 hc), hu⟩
    · rcases hseq with ⟨hw, -⟩ | ⟨hr, -⟩
      · have hcmd := ((onWait_iff s).1 hw).imp And.left fun hp => ((onPage_iff s).1 hp).1
        rw [hq, ht]
        exact Bool.or_eq_true_iff.2 (hcmd.imp decide_eq_true decide_eq_true)
      · exact absurd ((inPgread_iff s).2 ((onPgread_iff s).1 hr).1) (Bool.eq_false_iff.1 hc)
    · rw [hq, ht]
      exact decide_eq_true hc
  | page hq hp payload hr =>
    rcases pageSent_seq (payload.length + 1) (s.answer (.write s.latch.peer (BitVec.ofNat 8 s.pageStart :: payload)))
      (s.afterCall _) with ht | ht <;> rw [hq, ht] <;> rfl
  | readProbe hq hp =>
    unfold State.rdProbed
    split_ifs with ha hu
    · rw [hq]
      exact hu
    · rw [hq]
      exact (Bool.not_eq_true' _).mpr (by simpa using hu)
    · rw [hq]
      rfl
  | bulk hq hp =>
    rw [hq, bulkAnswered_seq]
    rfl
  | enable hq =>
    rw [hq]
    rfl
  | write hq d hd =>
    rcases writeCommandAnswered_seq (s.answer (.transceive (encode (.serWrite s.unitAddr d)) true)) (s.afterCall _) with
      ⟨ht | ht, -⟩ | ht | ⟨hc, ht⟩ <;> rw [hq, ht]
    · rfl
    · rfl
    · rfl
    · exact decide_eq_true hc
  | poll hq =>
    rcases (pollAnswered_seq (s.answer (.transceive (encode .serPoll) false)) (s.afterCall _)).1 with ht | ht <;>
      rw [hq, ht] <;> rfl
  | cleanup hq =>
    unfold State.cleanupAnswered
    rcases writeEnd_seq (s.afterCall (.transceive (encode .serIdle) true)) _ with ht | ⟨hc, ht⟩
    · rw [hq, ht]
      rfl
    · rw [hq, ht]
      exact decide_eq_true hc
  | read hq =>
    rcases readAnswered_seq (s.answer (.transceive (encode (.serRead s.unitAddr)) true)) (s.afterCall _) with
      ht | ⟨hc, ht⟩ <;> rw [hq, ht]
    · rfl
    · exact decide_eq_true hc
  | nextUnit hq =>
    simp only [State.seqOk, hq] at hseq
    rcases ((onSweep_iff s).1 hseq).1 with ⟨hc, -⟩ | hc
    · rw [hq, show s.nextUnit.seq = .wrCmd from if_pos ((inSweepWrite_iff s).2 hc)]
      exact decide_eq_true hc
    · rw [hq, show s.nextUnit.seq = .rdCmd from if_neg (by rw [inSweepWrite_iff, hc]; decide)]
      exact decide_eq_true hc
  | backlog hq hw =>
    rcases rxPolled_seq (s.answer .bytesAvailable) (s.afterCall .bytesAvailable) with ht | ht | ht
    · rw [hq, ht]; rfl
    · rw [hq, ht]; rfl
    · rw [ht, afterCall_seq, hq]; rfl
  | burst hq hw =>
    rcases rxRead_seq (s.answer (.slaveRead s.want)) (s.afterCall (.slaveRead s.want)) with ht | ht | ht <;>
      rw [hq, ht] <;> rfl
  | transform hq =>
    rw [hq]
    rfl
  | delayPre hq hp =>
    rw [State.preDelayed, afterDelay_seq, hq]
    rfl
  | reply hq hp bytes hr =>
    unfold State.replied
    split_ifs
    · rw [afterCall_seq, hq]
      rfl
    · rw [hq]
      rfl
  | delayPost hq hp =>
    rw [hq]
    rfl

/-- Settles O15: each move of a running command under the invariant is an edge. -/
theorem sequencerFollowsTheTransitionTable : Obligations.SequencerFollowsTheTransitionTable :=
  fun _ _ h hb ht => seqMove_edge h ((busy_iff_of_inv h).1 hb) (seqMove_of_next ht)

/-! The select signal. -/

/-- Away from the poll and the cleanup the select-signal invariant says that the signal is not asserted (R184). -/
theorem selOk_iff_of_ne {s : State} (hp : s.seq ≠ .wrPoll) (hc : s.seq ≠ .wrCleanup) :
    s.selOk = true ↔ s.sel ≠ .asserted := by
  unfold State.selOk
  split
  · exact absurd ‹_› hp
  · exact absurd ‹_› hc
  · exact decide_eq_true_iff

/-- Before the first chunk the signal is not asserted either (R176). -/
theorem selOk_of_att_zero {s : State} (ha : s.att = 0) (hs : s.sel ≠ .asserted) : s.selOk = true := by
  unfold State.selOk
  split <;> simp [ha, hs]

/-- A transceive that deasserts leaves the signal deasserted or unknown (R34). -/
theorem selAfter_deassert_ne (p : List Byte) (a : Answer) (x : Sel) : selAfter (.transceive p true) a x ≠ .asserted := by
  rcases selAfter_transceive p true a x with h | h <;> rw [h] <;> nofun

/-- The edges into the poll and the cleanup come from the write command, the poll and nowhere else (R313). -/
theorem seqEdge_to_poll {p : Params} {c : Byte} {q q' : Seq} (h : seqEdge p c q q' = true)
    (hq' : q' = .wrPoll ∨ q' = .wrCleanup) : q = .wrCmd ∨ q = .wrPoll := by
  rcases hq' with rfl | rfl <;> cases q <;> simp [seqEdge] at h ⊢

/-- A move away from the write command and the poll deasserts the signal (or leaves it unknown), or does not touch it and
is not the cleanup (R34). -/
theorem seqMove_sel {s t : State} (hm : SeqMove s t) (hc : s.seq ≠ .wrCmd) (hp : s.seq ≠ .wrPoll) :
    t.sel ≠ .asserted ∨ (s.seq ≠ .wrCleanup ∧ t.sel = s.sel) := by
  cases hm with
  | write hq => exact absurd hq hc
  | poll hq => exact absurd hq hp
  | enable => exact .inl ((enableAnswered_same _ _).sel.trans_ne (selAfter_deassert_ne _ _ _))
  | cleanup => exact .inl ((cleanupAnswered_same _ _).sel.trans_ne (selAfter_deassert_ne _ _ _))
  | read => exact .inl ((readAnswered_same _ _).sel.trans_ne (selAfter_deassert_ne _ _ _))
  | rest hq => exact .inr ⟨by simp [hq], rfl⟩
  | probe hq => exact .inr ⟨by simp [hq], (ackProbed_same _ _).sel⟩
  | status hq => exact .inr ⟨by simp [hq], (statusAnswered_same _ _).sel⟩
  | page hq => exact .inr ⟨by simp [hq], (pageSent_same _ _ _).sel⟩
  | readProbe hq => exact .inr ⟨by simp [hq], (rdProbed_same _ _).sel⟩
  | bulk hq => exact .inr ⟨by simp [hq], (bulkAnswered_same _ _).sel⟩
  | nextUnit hq => exact .inr ⟨by simp [hq], rfl⟩
  | backlog hq => exact .inr ⟨by simp [hq], (rxPolled_same _ _).sel⟩
  | burst hq => exact .inr ⟨by simp [hq], (rxRead_same _ _).sel⟩
  | transform hq => exact .inr ⟨by simp [hq], rfl⟩
  | delayPre hq => exact .inr ⟨by simp [hq], rfl⟩
  | reply hq => exact .inr ⟨by simp [hq], (replied_same _ _ _).sel⟩
  | delayPost hq => exact .inr ⟨by simp [hq], rfl⟩

/-- The write command deasserts the signal, and no attempt is made when it leads to the poll or the cleanup (R174). -/
theorem writeCommandAnswered_selOk (a : Answer) {s : State} (hs : s.sel ≠ .asserted) :
    (State.writeCommandAnswered a s).selOk = true := by
  have hne := (writeCommandAnswered_same a s).sel.trans_ne hs
  rcases writeCommandAnswered_seq a s with ⟨-, hatt⟩ | hq | ⟨-, hq⟩
  · exact selOk_of_att_zero hatt hne
  · exact (selOk_iff_of_ne (by simp [hq]) (by simp [hq])).2 hne
  · exact (selOk_iff_of_ne (by simp [hq]) (by simp [hq])).2 hne

/-- A chunk that was answered with a reply asserts the signal; any other answer leaves it unknown and fails the poll (R34,
R176). -/
theorem pollAnswered_selOk (a : Answer) (p : List Byte) (x : Sel) {s : State}
    (hs : s.sel = selAfter (.transceive p false) a x) : (State.pollAnswered a s).selOk = true := by
  have hsel := (pollAnswered_same a s).sel.trans hs
  obtain ⟨hq, hatt, hfail⟩ := pollAnswered_seq a s
  unfold State.selOk
  cases a with
  | reply r n => rcases hq with hq | hq <;> simp [hq, hatt, hsel, selAfter]
  | _ =>
    obtain ⟨hq, hout⟩ := hfail rfl
    simp [hq, hatt, hsel, hout, selAfter]

/-- Settles O14: a chunk asserts the signal (or leaves it unknown and fails the poll), every other transceive deasserts it,
and nothing else moves it. -/
theorem sequencerKeepsTheSelectSignal : Obligations.SequencerKeepsTheSelectSignal := by
  intro s t h hs hb ht
  have hm := seqMove_of_next ht
  have hedge := seqMove_edge h ((busy_iff_of_inv h).1 hb) hm
  by_cases hc : s.seq = .wrCmd
  · cases hm with
    | write => exact writeCommandAnswered_selOk _ (selAfter_deassert_ne _ _ _)
    | _ => simp_all
  by_cases hp : s.seq = .wrPoll
  · cases hm with
    | poll => exact pollAnswered_selOk _ _ _ rfl
    | _ => simp_all
  have hto : ¬ (t.seq = .wrPoll ∨ t.seq = .wrCleanup) := fun ht => (seqEdge_to_poll hedge ht).elim hc hp
  refine (selOk_iff_of_ne (fun h => hto (.inl h)) (fun h => hto (.inr h))).2 ?_
  rcases seqMove_sel hm hc hp with hne | ⟨hq, hsel⟩
  · exact hne
  · rw [hsel]
    exact (selOk_iff_of_ne hp hq).1 hs

/-! A running command takes its step. -/

/-- Does the sequencer state hand PEER over. -/
def Seq.usesPeer (q : Seq) : Prop := q = .ackProbe ∨ q = .ackStatus ∨ q = .pgSend ∨ q = .rdProbe ∨ q = .rdBulk

/-- Is a DBUF byte of the frame about to be sent unwritten: of the page, of the sweep's write frame, or of the reply. -/
def State.lacksData (s : State) : Prop :=
  (s.seq = .pgSend ∧ dbufRead s.dbuf (s.idx * s.latch.pageSize.toNat) s.latch.pageSize.toNat = none) ∨
    (s.seq = .wrCmd ∧ s.cmd = 0x13 ∧ bufGet .dbuf s.dbuf s.idx = none) ∨
    (s.seq = .responding ∧ s.phase = .reply ∧ dbufRead s.dbuf 0 s.latch.rxTarget.toNat = none)

/-- The sequencer's step runs the frame that SEQ stands at (R27, R313). -/
theorem seqStep_of_frame {s : State} {i : Instr} (h : s.nextMove = .frame i) : seqStep s = exec i s := by
  simp only [seqStep, h]

theorem seqStep_of_stop {s : State} {f : Fault} (h : s.nextMove = .stop f) : seqStep s = .fault f := by
  simp only [seqStep, h]

theorem handI2c_of_turn {payload : List Byte} {turn : Bool} {k : Answer → State → State} {s : State} (ht : turn = true) :
    handI2c payload turn k s =
      if s.peerWritten then .next (k (s.answer (.write s.latch.peer payload)) (s.afterCall (.write s.latch.peer payload)))
      else .fault .unwrittenPeer := by
  simp only [handI2c, ht, if_true, withPeer, handFrame]

/-- A move that hands PEER over faults exactly when nothing has written it. -/
theorem next_or_unwrittenPeer {b : Bool} {o : Out} {t : State} (h : o = if b then .next t else .fault .unwrittenPeer) :
    (∃ u, o = .next u) ∨ (o = .fault .unwrittenPeer ∧ b = false) := by
  cases b
  · exact .inr ⟨h, rfl⟩
  · exact .inl ⟨t, h⟩

/-- The step of the sequencer in any state at all: a next state, or one of the two faults of R39, with what is missing. -/
theorem seqStep_cases (s : State) :
    (∃ t, seqStep s = .next t) ∨ (seqStep s = .fault .unwrittenPeer ∧ s.peerWritten = false ∧ s.seq.usesPeer) ∨
      (seqStep s = .fault .unwrittenDbuf ∧ s.lacksData) := by
  have peer : ∀ {t : State}, s.seq.usesPeer → (seqStep s = if s.peerWritten then .next t else .fault .unwrittenPeer) →
      (∃ t, seqStep s = .next t) ∨ (seqStep s = .fault .unwrittenPeer ∧ s.peerWritten = false ∧ s.seq.usesPeer) ∨
        (seqStep s = .fault .unwrittenDbuf ∧ s.lacksData) := fun hu h =>
    (next_or_unwrittenPeer h).imp_right fun ⟨hf, hp⟩ => .inl ⟨hf, hp, hu⟩
  obtain ⟨q, hq⟩ : ∃ q, s.seq = q := ⟨_, rfl⟩
  cases q
  case idle => exact .inl ⟨s, by simp only [seqStep, State.nextMove, hq]⟩
  case ackProbe =>
    exact peer (.inl hq) ((seqStep_of_frame (i := .i2cProbe) (by simp only [State.nextMove, hq])).trans
      (handI2c_of_turn (by simp [hq])))
  case ackStatus =>
    have hstep : seqStep s = readStatus s := by simp only [seqStep, State.nextMove, hq]
    exact peer (.inr (.inl hq)) (hstep.trans rfl)
  case pgSend =>
    cases hr : dbufRead s.dbuf s.pageStart s.latch.pageSize.toNat with
    | none => exact .inr (.inr ⟨seqStep_of_stop (by simp only [State.nextMove, hq, State.pageMove, hr]), .inl ⟨hq, hr⟩⟩)
    | some payload =>
      exact peer (.inr (.inr (.inl hq))) ((seqStep_of_frame (i := .i2cPage (BitVec.ofNat 8 s.pageStart) payload)
        (by simp only [State.nextMove, hq, State.pageMove, hr])).trans (handI2c_of_turn (by simp [hq])))
  case rdProbe =>
    exact peer (.inr (.inr (.inr (.inl hq)))) ((seqStep_of_frame (i := .i2cProbe)
      (by simp only [State.nextMove, hq])).trans (handI2c_of_turn (by simp [hq])))
  case rdBulk =>
    have hstep : seqStep s = readBulk s := by simp only [seqStep, State.nextMove, hq]
    exact peer (.inr (.inr (.inr (.inr hq)))) (hstep.trans rfl)
  case enableWrites =>
    exact .inl ⟨_, (seqStep_of_frame (i := .serEwen) (by simp only [State.nextMove, hq])).trans
      (handFrame_turn (decide_eq_true hq))⟩
  case wrCmd =>
    cases hd : s.unitData with
    | none =>
      refine .inr (.inr ⟨seqStep_of_stop (by simp only [State.nextMove, hq, State.writeMove, hd]),
        .inr (.inl ⟨hq, ?_⟩)⟩)
      simp only [State.unitData] at hd
      split_ifs at hd with hc
      exact ⟨(inSweepWrite_iff s).1 hc, hd⟩
    | some d =>
      exact .inl ⟨_, (seqStep_of_frame (i := .serWrite s.unitAddr d)
        (by simp only [State.nextMove, hq, State.writeMove, hd])).trans (handFrame_turn (decide_eq_true hq))⟩
  case wrPoll =>
    exact .inl ⟨_, (seqStep_of_frame (i := .serPoll) (by simp only [State.nextMove, hq])).trans
      (handFrame_turn (decide_eq_true hq))⟩
  case wrCleanup =>
    exact .inl ⟨_, (seqStep_of_frame (i := .serIdle) (by simp only [State.nextMove, hq])).trans
      (handFrame_turn (decide_eq_true hq))⟩
  case rdCmd =>
    exact .inl ⟨_, (seqStep_of_frame (i := .serRead s.unitAddr) (by simp only [State.nextMove, hq])).trans
      (handFrame_turn (decide_eq_true hq))⟩
  case sweepNext => exact .inl ⟨s.nextUnit, by simp only [seqStep, State.nextMove, hq]⟩
  case receiving =>
    by_cases hw : s.want = 0
    · have hstep : seqStep s = pollBacklog s := by simp only [seqStep, State.nextMove, hq, hw, if_true]
      exact .inl ⟨_, hstep⟩
    · have hstep : seqStep s = readBurst s := by simp only [seqStep, State.nextMove, hq, hw, if_false]
      exact .inl ⟨_, hstep⟩
  case complete => exact .inl ⟨s.transformed, by simp only [seqStep, State.nextMove, hq]⟩
  case responding =>
    cases hp : s.phase with
    | preDelay => exact .inl ⟨s.preDelayed, by simp only [seqStep, State.nextMove, hq, hp]⟩
    | postDelay => exact .inl ⟨s.postDelayed, by simp only [seqStep, State.nextMove, hq, hp]⟩
    | reply =>
      cases hr : dbufRead s.dbuf 0 s.latch.rxTarget.toNat with
      | none =>
        exact .inr (.inr ⟨seqStep_of_stop (by simp only [State.nextMove, hq, hp, State.replyMove, hr]),
          .inr (.inr ⟨hq, hp, hr⟩)⟩)
      | some bytes =>
        exact .inl ⟨_, (seqStep_of_frame (i := .slaveFrame bytes)
          (by simp only [State.nextMove, hq, hp, State.replyMove, hr])).trans (handFrame_turn (decide_eq_true ⟨hq, hp⟩))⟩

theorem peerWritten_of_onWait {s : State} (h : s.onWait = true) : s.peerWritten = true :=
  ((onWait_iff s).1 h).elim And.right fun hp => ((onPage_iff s).1 hp).2.2.2.1

theorem peerWritten_of_onPgread {s : State} (h : s.onPgread = true) : s.peerWritten = true := ((onPgread_iff s).1 h).2.2

/-- Under the invariant a command that hands PEER over finds it written (R275). -/
theorem peerWritten_of_inv {s : State} (h : s.inv = true) (hu : s.seq.usesPeer) : s.peerWritten = true := by
  have hseq := ((inv_iff s).1 h).2.2.2
  rcases hu with hq | hq | hq | hq | hq <;>
    simp only [State.seqOk, hq, Bool.and_eq_true, Bool.or_eq_true] at hseq
  · exact peerWritten_of_onWait hseq.1
  · exact hseq.elim (fun hw => peerWritten_of_onWait hw.1) fun hr => peerWritten_of_onPgread hr.1
  · exact ((onPage_iff s).1 hseq).2.2.2.1
  · exact peerWritten_of_onPgread hseq
  · exact peerWritten_of_onPgread hseq

/-- Of written bytes every part is written. -/
theorem dbufRead_ne_none_of_isSome {m : Memory} {i k n : Nat} (h : (dbufRead m 0 n).isSome = true) (hle : i + k ≤ n) :
    dbufRead m i k ≠ none := by
  rw [dbufRead_isSome_iff] at h
  rw [← Option.isSome_iff_ne_none, dbufRead_isSome_iff]
  intro j hj
  simpa using h (i + j) (by omega)

/-- A page of a legal PGWRITE ends within its data (R151, R152). -/
theorem pageStart_add_le {s : State} (h : s.onPage = true) :
    s.idx * s.latch.pageSize.toNat + s.latch.pageSize.toNat ≤ s.latch.len.toNat := by
  obtain ⟨-, hlegal, hlt, -⟩ := (onPage_iff s).1 h
  rw [← pageCount_mul _ hlegal, ← Nat.succ_mul]
  exact Nat.mul_le_mul_right _ hlt

/-- Under the invariant every byte of the frame about to be sent is written (R39, R275). -/
theorem not_lacksData_of_inv {s : State} (h : s.inv = true) : ¬ s.lacksData := by
  have hseq := ((inv_iff s).1 h).2.2.2
  rintro (⟨hq, hr⟩ | ⟨hq, hcmd, hr⟩ | ⟨hq, -, hr⟩) <;>
    simp only [State.seqOk, hq, Bool.and_eq_true, decide_eq_true_eq] at hseq
  · exact dbufRead_ne_none_of_isSome ((onPage_iff s).1 hseq).2.2.2.2 (pageStart_add_le hseq) hr
  · obtain ⟨hdata, -, hlt, -⟩ := (onSweep_iff s).1 (onSweep_of_onWrite hseq ((inSweepWrite_iff s).2 hcmd))
    have hdata := hdata.resolve_right (by rw [hcmd]; decide)
    have := (dbufRead_isSome_iff _ _ _).1 hdata.2 s.idx hlt
    rw [Nat.zero_add, ← bufGet_dbuf, hr] at this
    cases this
  · obtain ⟨hf, hfull⟩ := hseq
    obtain ⟨-, -, -, -, hdata⟩ := (onFrame_iff s).1 hf
    exact dbufRead_ne_none_of_isSome hdata (by omega) hr

/-- Settles O16: of the two faults of R39 neither is left under the invariant. -/
theorem runningCommandIsNeverRefused : Obligations.RunningCommandIsNeverRefused := by
  refine ⟨fun s h _ => ?_, fun s => ?_⟩
  · rcases seqStep_cases s with hnext | ⟨-, hp, hu⟩ | ⟨-, hd⟩
    · exact hnext
    · rw [peerWritten_of_inv h hu] at hp
      cases hp
    · exact absurd hd (not_lacksData_of_inv h)
  · rcases seqStep_cases s with hnext | ⟨hf, hp, -⟩ | hd
    · exact .inl hnext
    · exact .inr (.inl ⟨hf, hp⟩)
    · exact .inr (.inr hd)

end Sys2Proof.Machine
end

section
/-!
PROOFS. The step and what it runs (spec/00_scope.md R3, spec/44_common_semantics.md R313): the host's act, the wire frame at
which SEQ stands, reset (spec/70_reset_and_hazards.md R270 to R272), and the faults of what nothing has written
(spec/10_state.md R39).
-/

namespace Sys2Proof.Machine

open Sys2Proof

/-! The host's act. -/

/-- An act of the host other than the wait for DONE is taken at once, at the state that no longer lists it. -/
theorem step_of_act {s : State} {inp : Input} {rest : List Input} (hi : s.inputs = inp :: rest) (hw : inp ≠ .waitDone) :
    step s = hostAct inp { s with inputs := rest } := by
  unfold step turn
  rw [hi]
  cases inp with
  | waitDone => exact absurd rfl hw
  | _ => rfl

/-- Settles O6: the write of CMD dispatches the instruction that the low byte decodes to. -/
theorem stepRunsTheWrittenCommand : Obligations.StepRunsTheWrittenCommand := by
  intro s v rest i hi hd
  rw [step_of_write_cmd hi, commandWrite, hd]

/-- Between commands the bytes of a frame are run as the frame (R282, R288; log 17). -/
theorem step_of_wire_ok {s : State} {c : Connection} {bytes : List Byte} {rest : List Input} {i : Instr}
    (hi : s.inputs = .wire c bytes :: rest) (hb : s.busy = false) (hd : decode c.format bytes = .ok i) :
    step s = exec i { s with inputs := rest } := by
  have hb' : ¬ State.busy { s with inputs := rest } = true := Bool.eq_false_iff.1 hb
  rw [step_of_act hi nofun, hostAct, directFrame, if_neg hb', hd]

/-- Other bytes are carried by the connection's own call (log 17). -/
theorem step_of_wire_error {s : State} {c : Connection} {bytes : List Byte} {rest : List Input} {e : DecodeError}
    (hi : s.inputs = .wire c bytes :: rest) (hb : s.busy = false) (hd : decode c.format bytes = .error e) :
    step s = handRaw c bytes { s with inputs := rest } := by
  have hb' : ¬ State.busy { s with inputs := rest } = true := Bool.eq_false_iff.1 hb
  rw [step_of_act hi nofun, hostAct, directFrame, if_neg hb', hd]

theorem step_of_transport {s : State} {c : Call} {rest : List Input} (hi : s.inputs = .transport c :: rest)
    (hb : s.busy = false) : step s = .next (State.afterCall { s with inputs := rest } c) := by
  rw [step_of_act hi nofun]
  exact hostTransport_next.2 ⟨hb, rfl⟩

/-- Settles O7: frames, raw bytes and calls of the host's own between commands. -/
theorem stepRunsTheDirectFrame : Obligations.StepRunsTheDirectFrame := by
  refine ⟨fun s c bytes rest hi hb => ⟨fun i hd => ?_, fun e hd => ?_⟩,
    fun s c rest a as hi hb ha => ⟨fun hc => ?_, ?_⟩⟩
  · exact step_of_wire_ok hi hb hd
  · have hstep := step_of_wire_error hi hb hd
    refine ⟨?_, ?_, ?_, ?_, ?_⟩
    · rintro rfl hp
      obtain ⟨hpeer, hread⟩ := ownPeer_of_written (s := { s with inputs := rest }) hp
      rw [hstep, handRaw, hpeer, hread]
    · rintro rfl hp
      obtain ⟨hpeer, hread⟩ := ownPeer_of_unwritten (s := { s with inputs := rest }) hp
      rw [hstep, handRaw, hpeer, hread]
    · rintro rfl
      exact hstep
    · rintro rfl
      exact hstep
    · rintro rfl
      exact hstep
  · rw [step_of_transport hi hb, afterCall_of_not_transceive (s := { s with inputs := rest }) ha hc]
  · rintro p d rfl
    rw [step_of_transport hi hb]
    refine ⟨fun hr => ?_, fun hr => ?_⟩
    · rw [afterCall_of_reply (s := { s with inputs := rest }) ha hr, Sel.ofDeassert]
    · rw [afterCall_of_not_reply (s := { s with inputs := rest }) ha hr]

/-! The frame that SEQ stands at. -/

theorem step_of_frame {s : State} {i : Instr} (hi : s.inputs = []) (hb : s.busy = true) (h : s.nextMove = .frame i) :
    step s = exec i s := (step_busy hi hb).trans (seqStep_of_frame h)

theorem step_of_stop {s : State} {f : Fault} (hi : s.inputs = []) (hb : s.busy = true) (h : s.nextMove = .stop f) :
    step s = .fault f := (step_busy hi hb).trans (seqStep_of_stop h)

/-- At PgSend the next move is the frame of the current page, or a stop if one of its bytes is unwritten (R152, R164). -/
theorem nextMove_pgSend {s : State} (hq : s.seq = .pgSend) : s.nextMove = s.pageMove := by
  simp only [State.nextMove, hq]

theorem pageMove_of_some {s : State} {payload : List Byte}
    (hr : dbufRead s.dbuf (s.idx * s.latch.pageSize.toNat) s.latch.pageSize.toNat = some payload) :
    s.pageMove = .frame (.i2cPage (BitVec.ofNat 8 (s.idx * s.latch.pageSize.toNat)) payload) := by
  rw [State.pageMove, State.pageStart, hr]

theorem pageMove_of_none {s : State}
    (hr : dbufRead s.dbuf (s.idx * s.latch.pageSize.toNat) s.latch.pageSize.toNat = none) :
    s.pageMove = .stop .unwrittenDbuf := by
  rw [State.pageMove, State.pageStart, hr]

/-- At WrCmd it is the write frame of the current unit, or a stop if its datum is unwritten (R174). -/
theorem nextMove_wrCmd {s : State} (hq : s.seq = .wrCmd) : s.nextMove = s.writeMove := by
  simp only [State.nextMove, hq]

theorem writeMove_of_single {s : State} (hc : s.cmd = 0x11) :
    s.writeMove = .frame (.serWrite (s.latch.saddr.setWidth 7) s.latch.sdata) := by
  have haddr := unitAddr_of_saddr s (by rw [hc]; decide) (by rw [hc]; decide)
  have hdata : s.unitData = some s.latch.sdata := if_neg (by rw [inSweepWrite_iff, hc]; decide)
  rw [State.writeMove, hdata, haddr]

theorem unitData_of_sweep {s : State} (hc : s.cmd = 0x13) : s.unitData = bufGet .dbuf s.dbuf s.idx :=
  if_pos ((inSweepWrite_iff s).2 hc)

theorem writeMove_of_sweep {s : State} {d : Byte} (hc : s.cmd = 0x13) (hd : bufGet .dbuf s.dbuf s.idx = some d) :
    s.writeMove = .frame (.serWrite (BitVec.ofNat 7 s.idx) d) := by
  rw [State.writeMove, unitData_of_sweep hc, hd, unitAddr_of_sweep s (.inl hc)]

theorem writeMove_of_none {s : State} (hc : s.cmd = 0x13) (hd : bufGet .dbuf s.dbuf s.idx = none) :
    s.writeMove = .stop .unwrittenDbuf := by
  rw [State.writeMove, unitData_of_sweep hc, hd]

/-- At the reply it is the frame of the transformed bytes, or a stop if one of them is unwritten (R212). -/
theorem nextMove_reply {s : State} (hq : s.seq = .responding) (hp : s.phase = .reply) : s.nextMove = s.replyMove := by
  simp only [State.nextMove, hq, hp]

theorem replyMove_of_some {s : State} {bytes : List Byte} (hr : dbufRead s.dbuf 0 s.latch.rxTarget.toNat = some bytes) :
    s.replyMove = .frame (.slaveFrame bytes) := by
  rw [State.replyMove, hr]

theorem replyMove_of_none {s : State} (hr : dbufRead s.dbuf 0 s.latch.rxTarget.toNat = none) :
    s.replyMove = .stop .unwrittenDbuf := by
  rw [State.replyMove, hr]

/-- At RdCmd it is the read frame of the current unit (R181). -/
theorem nextMove_rdCmd {s : State} (hq : s.seq = .rdCmd) : s.nextMove = .frame (.serRead s.unitAddr) := by
  simp only [State.nextMove, hq]

/-- Settles O8: each wire frame at its sequencer state, its operands from the latches, `idx` and DBUF. -/
theorem stepRunsTheFrameOfTheSequencerState : Obligations.StepRunsTheFrameOfTheSequencerState := by
  intro s hi hb
  refine ⟨fun hq => ?_, fun hq => ?_, fun payload hq hr => ?_, fun hq => ?_, fun hq hc => ?_, fun d hq hc hd => ?_,
    fun hq => ?_, fun hq => ?_, fun hq hc => ?_, fun hq hc => ?_, fun bytes hq hp hr => ?_⟩
  · exact step_of_frame hi hb (by simp only [State.nextMove, hq])
  · exact step_of_frame hi hb (by simp only [State.nextMove, hq])
  · exact step_of_frame hi hb ((nextMove_pgSend hq).trans (pageMove_of_some hr))
  · exact step_of_frame hi hb (by simp only [State.nextMove, hq])
  · exact step_of_frame hi hb ((nextMove_wrCmd hq).trans (writeMove_of_single hc))
  · exact step_of_frame hi hb ((nextMove_wrCmd hq).trans (writeMove_of_sweep hc hd))
  · exact step_of_frame hi hb (by simp only [State.nextMove, hq])
  · exact step_of_frame hi hb (by simp only [State.nextMove, hq])
  · rw [step_of_frame hi hb (nextMove_rdCmd hq), unitAddr_of_saddr s (by rw [hc]; decide) (by rw [hc]; decide)]
  · rw [step_of_frame hi hb (nextMove_rdCmd hq), unitAddr_of_sweep s (.inr hc)]
  · exact step_of_frame hi hb ((nextMove_reply hq hp).trans (replyMove_of_some hr))

/-- Settles O9: an idle block stays as it is; a use of the Transport by the host tests BUSY first. -/
theorem idleBlockDoesNothing : Obligations.IdleBlockDoesNothing := by
  refine ⟨fun s hi hb => step_idle hi hb, fun s inp rest huse hi hb => ?_⟩
  rcases huse with ⟨c, bytes, rfl⟩ | ⟨c, rfl⟩
  · rw [step_of_act hi nofun]
    exact if_pos hb
  · rw [step_of_act hi nofun]
    exact if_pos hb

/-! Reset. -/

/-- The transform table at reset is the ASCII uppercase table (R33; log 26). -/
theorem bufGet_xlut_nil (b : Byte) :
    bufGet .xlut [] b.toNat = some (if 0x61 ≤ b.toNat ∧ b.toNat ≤ 0x7A then b - 0x20 else b) := by
  change some (Config.xform (BitVec.ofNat 8 b.toNat)) = _
  rw [BitVec.ofNat_toNat, BitVec.setWidth_eq]
  rfl

theorem atReset_reset : atReset State.reset :=
  ⟨rfl, rfl, rfl, rfl, rfl, rfl, rfl, rfl, rfl, rfl, rfl, rfl, rfl, rfl, rfl, rfl, rfl, rfl, rfl, rfl, rfl, rfl, rfl, rfl,
    rfl, fun _ _ => rfl, bufGet_xlut_nil, fun _ => rfl, rfl, rfl⟩

/-- RST that is not refused leads to the reset values, with the history and what is left of the host's acts kept (log 29). -/
theorem step_of_rst {s : State} {rest : List Input} (hi : s.inputs = .rst :: rest)
    (h : ¬ (s.busy = true ∧ s.params.resetWhileBusy = .refuse)) :
    ∃ t : State, step s = .next t ∧ t.hist = s.hist ∧ t.inputs = rest ∧ atReset t := by
  rw [step_of_act hi nofun]
  exact ⟨_, if_neg h, rfl, rfl, atReset_reset⟩

/-- Settles O10: the reset state, and RST while no command runs. -/
theorem resetLeavesTheStatedValues : Obligations.ResetLeavesTheStatedValues :=
  ⟨atReset_reset, fun _ _ hb hi => step_of_rst hi fun h => by rw [hb] at h; cases h.1⟩

/-- Settles O11: the two values of the parameter (U14). -/
theorem resetWhileBusyFollowsTheParameter : Obligations.ResetWhileBusyFollowsTheParameter := by
  intro s rest hb hi
  refine ⟨fun hp => ?_, fun hp => step_of_rst hi fun h => by rw [hp] at h; cases h.2⟩
  rw [step_of_act hi nofun]
  exact if_pos ⟨hb, hp⟩

/-! What nothing has written. -/

/-- A command whose launch premise is missing is that fault at its issue (R39, R275; log 10). -/
theorem exec_of_missing {s : State} {i : Instr} {f : Fault} (hi : i ∈ commandList) (hb : s.busy = false)
    (hm : missingOf i s = some f) : exec i s = .fault f := by
  rw [exec_command hi, hm, issue_missing hb]

/-- A frame or call of a running command that hands PEER over faults when nothing has written it (R39). -/
theorem seqStep_of_unwrittenPeer {s : State} (hp : s.peerWritten = false)
    (hq : s.seq = .ackProbe ∨ s.seq = .ackStatus ∨ s.seq = .rdProbe ∨ s.seq = .rdBulk) :
    seqStep s = .fault .unwrittenPeer := by
  rcases hq with hq | hq | hq | hq
  · rw [seqStep_of_frame (i := .i2cProbe) (by simp only [State.nextMove, hq])]
    exact (handI2c_of_turn (by simp [hq])).trans (if_neg (by simp [hp]))
  · have hstep : seqStep s = readStatus s := by simp only [seqStep, State.nextMove, hq]
    exact hstep.trans (if_neg (by simp [hp]))
  · rw [seqStep_of_frame (i := .i2cProbe) (by simp only [State.nextMove, hq])]
    exact (handI2c_of_turn (by simp [hq])).trans (if_neg (by simp [hp]))
  · have hstep : seqStep s = readBulk s := by simp only [seqStep, State.nextMove, hq]
    exact hstep.trans (if_neg (by simp [hp]))

/-- Settles O26: the launch premises in their order, and the stops of the frames in states that no run reaches. -/
theorem unwrittenBytesAreNotTransmitted : Obligations.UnwrittenBytesAreNotTransmitted := by
  constructor
  · intro s hb
    refine ⟨fun hp hlim => ?_, fun hp hv hlen => ?_, fun hp hv => ?_, fun hp hv hr => ?_, fun hv hr => ?_⟩
    · refine exec_of_missing (by decide) hb ?_
      rw [missingOf, decide_eq_true ((toNat_pos_iff _).2 hlim), launchFault_peer hp]
    · refine exec_of_missing (by decide) hb ((if_pos ((checkOf_iff .pgwrite s.regs).2 hv)).trans ?_)
      rw [decide_eq_true ((toNat_pos_iff _).2 hlen), launchFault_peer hp]
    · exact exec_of_missing (by decide) hb ((if_pos ((checkOf_iff .pgread s.regs).2 hv)).trans (launchFault_peer hp))
    · exact exec_of_missing (by decide) hb
        ((if_pos ((checkOf_iff .pgwrite s.regs).2 hv)).trans (launchFault_dbuf (fun _ => hp) hr))
    · exact exec_of_missing (by decide) hb
        ((if_pos ((checkOf_iff .ssweepw s.regs).2 hv)).trans (launchFault_dbuf nofun hr))
  · intro s hi hb
    refine ⟨fun hq hr => ?_, fun payload hq hp hr => ?_, fun hq hc hd => ?_, fun hq hp hr => ?_, fun hp hq => ?_⟩
    · exact step_of_stop hi hb ((nextMove_pgSend hq).trans (pageMove_of_none hr))
    · rw [step_of_frame hi hb ((nextMove_pgSend hq).trans (pageMove_of_some hr))]
      exact (handI2c_of_turn (by simp [hq])).trans (if_neg (by simp [hp]))
    · exact step_of_stop hi hb ((nextMove_wrCmd hq).trans (writeMove_of_none hc hd))
    · exact step_of_stop hi hb ((nextMove_reply hq hp).trans (replyMove_of_none hr))
    · rw [step_busy hi hb]
      exact seqStep_of_unwrittenPeer hp hq

end Sys2Proof.Machine
end

section
/-!
PROOFS. The host's accesses (spec/10_state.md R21, R22, R24 to R32, R39, spec/70_reset_and_hazards.md R281): what a read
returns, what a write changes and what it leaves, and the faults.
-/

namespace Sys2Proof.Machine

open Sys2Proof

/-! Reads of registers. -/

/-- Bits 1:0 of a byte, as the number that a read returns (R24, R29). -/
theorem lowTwoBits_setWidth (b : Byte) :
    (lowTwoBits b).setWidth 32 = (if b.getLsbD 0 then 1 else 0) + (if b.getLsbD 1 then (2 : Word) else 0) := by
  revert b; decide

theorem regReadIsFree_eq_false {s : State} {n : Nat} (hp : n = 2 → s.peerWritten = true)
    (hl : n = 20 → s.lastStatusWritten = true) : s.regReadIsFree n = false := by
  simp only [State.regReadIsFree, Bool.or_eq_false_iff, Bool.and_eq_false_iff, decide_eq_false_iff_not,
    Bool.not_eq_false']
  exact ⟨Decidable.not_or_of_imp hp, Decidable.not_or_of_imp hl⟩

/-- A read of a register that holds a value returns it; STATUS may be read at any moment (R21, R281). -/
theorem step_of_hostRead {s : State} {n : Nat} {rest : List Input} (hi : s.inputs = .hostRead n :: rest)
    (hb : s.busy = false ∨ n = 1) (hf : s.regReadIsFree n = false) :
    step s = .next { s with inputs := rest, reads := s.reads ++ [s.regValue n] } := by
  have hlegal : ¬ (State.busy { s with inputs := rest } = true ∧ n ≠ 1) := by
    rintro ⟨hbusy, hn⟩
    exact hb.elim (fun h => Bool.eq_false_iff.1 h hbusy) hn
  have hfree : ¬ State.regReadIsFree { s with inputs := rest } n = true := Bool.eq_false_iff.1 hf
  rw [step_of_act hi nofun, hostAct, hostRead, if_neg hlegal, if_neg hfree]
  rfl

/-- A read of PEER or LAST_STATUS that nothing has written returns a free value (R39, U11). -/
theorem step_of_hostRead_free {s : State} {n : Nat} {rest : List Input} (hi : s.inputs = .hostRead n :: rest)
    (hb : s.busy = false) (hf : s.regReadIsFree n = true) :
    step s = .next { s with
      inputs := rest, draws := s.draws + 1, reads := s.reads ++ [(Config.freeByte s.draws).setWidth 32] } := by
  have hlegal : ¬ (State.busy { s with inputs := rest } = true ∧ n ≠ 1) := fun h => Bool.eq_false_iff.1 hb h.1
  rw [step_of_act hi nofun, hostAct, hostRead, if_neg hlegal]
  exact congrArg _ (if_pos hf)

/-- Settles O21: register 1 is readable while BUSY = 1 too, and never free. -/
theorem statusReadIsAlwaysLegal : Obligations.StatusReadIsAlwaysLegal := by
  intro s rest hi
  rw [step_of_hostRead hi (.inr rfl) (regReadIsFree_eq_false nofun nofun)]
  exact congrArg (fun v => Host.Outcome.next { s with inputs := rest, reads := s.reads ++ [v] })
    (lowTwoBits_setWidth s.status)

/-! Reads of buffer elements. -/

theorem step_of_bufRead {s : State} {sp : BufSpace} {i : Nat} {v : Byte} {rest : List Input}
    (hi : s.inputs = .bufRead sp i :: rest) (hb : s.busy = false) (hlt : i < sp.size)
    (hv : bufGet sp (s.buffer sp) i = some v) :
    step s = .next { s with inputs := rest, reads := s.reads ++ [v.setWidth 32] } := by
  have hv' : bufGet sp (State.buffer { s with inputs := rest } sp) i = some v := by cases sp <;> exact hv
  have hlegal : ¬ State.busy { s with inputs := rest } = true := Bool.eq_false_iff.1 hb
  rw [step_of_act hi nofun, hostAct, hostBufRead, if_neg hlegal, if_neg (Nat.not_le.2 hlt), hv']
  rfl

/-- A read of a DBUF byte that nothing has written returns a free value (R39, U11). -/
theorem step_of_bufRead_free {s : State} {sp : BufSpace} {i : Nat} {rest : List Input}
    (hi : s.inputs = .bufRead sp i :: rest) (hb : s.busy = false) (hlt : i < sp.size)
    (hv : bufGet sp (s.buffer sp) i = none) :
    step s = .next { s with
      inputs := rest, draws := s.draws + 1, reads := s.reads ++ [(Config.freeByte s.draws).setWidth 32] } := by
  have hv' : bufGet sp (State.buffer { s with inputs := rest } sp) i = none := by cases sp <;> exact hv
  have hlegal : ¬ State.busy { s with inputs := rest } = true := Bool.eq_false_iff.1 hb
  rw [step_of_act hi nofun, hostAct, hostBufRead, if_neg hlegal, if_neg (Nat.not_le.2 hlt), hv']
  rfl

/-- An index outside a buffer names no element (R30, R32, R33; log 16). -/
theorem step_of_buf_outside {s : State} {sp : BufSpace} {i : Nat} {v : Byte} {rest : List Input}
    (hi : s.inputs = .bufRead sp i :: rest ∨ s.inputs = .bufWrite sp i v :: rest) (hb : s.busy = false)
    (hge : sp.size ≤ i) : step s = .fault .noSuchElement := by
  have hlegal : ¬ State.busy { s with inputs := rest } = true := Bool.eq_false_iff.1 hb
  rcases hi with hi | hi
  · rw [step_of_act hi nofun, hostAct, hostBufRead, if_neg hlegal, if_pos hge]
  · rw [step_of_act hi nofun, hostAct, hostBufWrite, if_neg hlegal, if_pos hge]

/-- The entries of the list of register contents are what reads return, and none of them is free (R22, R29). -/
theorem registerContents_read {s : State} {nv : Nat × Word} (h : nv ∈ registerContents s) :
    s.regReadIsFree nv.1 = false ∧ s.regValue nv.1 = nv.2 := by
  have value : ∀ n : Nat, n ≠ 2 → n ≠ 20 → s.regReadIsFree n = false := fun n h2 h20 =>
    regReadIsFree_eq_false (fun h => absurd h h2) (fun h => absurd h h20)
  revert nv
  simp only [registerContents, List.forall_mem_append, List.forall_mem_cons]
  refine ⟨⟨⟨⟨value _ ?_ ?_, rfl⟩, ⟨value _ ?_ ?_, rfl⟩, ⟨value _ ?_ ?_, rfl⟩, ⟨value _ ?_ ?_, rfl⟩, ⟨value _ ?_ ?_, rfl⟩,
    ⟨value _ ?_ ?_, rfl⟩, ⟨value _ ?_ ?_, rfl⟩, ⟨value _ ?_ ?_, rfl⟩, ⟨value _ ?_ ?_, rfl⟩, ⟨value _ ?_ ?_, rfl⟩,
    ⟨value _ ?_ ?_, rfl⟩, ⟨value _ ?_ ?_, rfl⟩, ⟨value _ ?_ ?_, rfl⟩, ⟨value _ ?_ ?_, rfl⟩, ⟨value _ ?_ ?_, rfl⟩,
    ⟨value _ ?_ ?_, rfl⟩, ⟨value _ ?_ ?_, lowTwoBits_setWidth _⟩, ⟨value _ ?_ ?_, rfl⟩, ⟨value _ ?_ ?_, rfl⟩, nofun⟩,
    ?peer⟩, ?lastStatus⟩
  case peer =>
    intro nv hm
    split_ifs at hm with hp
    · obtain rfl := List.mem_singleton.1 hm
      exact ⟨regReadIsFree_eq_false (fun _ => hp) nofun, rfl⟩
    · cases hm
  case lastStatus =>
    intro nv hm
    split_ifs at hm with hl
    · obtain rfl := List.mem_singleton.1 hm
      exact ⟨regReadIsFree_eq_false nofun fun _ => hl, rfl⟩
    · cases hm
  all_goals decide

/-- Settles O60: registers by the list of their contents, elements by their buffer, and the indices outside. -/
theorem hostReadsReturnTheContents : Obligations.HostReadsReturnTheContents := by
  intro s rest hb
  refine ⟨fun nv hm hi => ?_, fun i v hlt hv hi => ?_, fun i v hlt hv hi => ?_, fun i v hlt hv hi => ?_,
    fun sp i v hge hi => ?_⟩
  · obtain ⟨hfree, hvalue⟩ := registerContents_read hm
    rw [step_of_hostRead hi (.inl hb) hfree, hvalue]
  · exact step_of_bufRead hi hb hlt hv
  · exact step_of_bufRead hi hb hlt hv
  · exact step_of_bufRead hi hb hlt hv
  · exact step_of_buf_outside hi hb (by cases sp <;> exact hge)

/-- Settles O25: the two registers and the buffer that can be unwritten. -/
theorem unwrittenReadsAreFree : Obligations.UnwrittenReadsAreFree := by
  rintro s t rest hb rfl
  refine ⟨fun i hlt hi hv => ?_, fun hi hp => ?_, fun hi hl => ?_⟩
  · exact step_of_bufRead_free hi hb hlt hv
  · exact step_of_hostRead_free hi hb (by simp [State.regReadIsFree, hp])
  · exact step_of_hostRead_free hi hb (by simp [State.regReadIsFree, hl])

/-! Writes of registers. -/

theorem step_of_hostWrite {s : State} {n : Nat} {v : Word} {rest : List Input} (hi : s.inputs = .hostWrite n v :: rest)
    (hb : s.busy = false) (hn : n ≠ 0) : step s = .next (State.regWritten { s with inputs := rest } n v) := by
  have hact := step_of_act hi nofun
  rw [hostAct, if_neg hn] at hact
  exact hact.trans (if_neg (Bool.eq_false_iff.1 hb))

/-- What a host access leaves alone: the sequencer with its counters, STATUS and CMD, the results, the latches, SEL, the
history, UNITSTAT, the script, the parameters and the acts to come (R21, R22). -/
def HostAccessKeeps (s t : State) : Prop :=
  t.seq = s.seq ∧ t.status = s.status ∧ t.cmd = s.cmd ∧ t.res = s.res ∧ t.latch = s.latch ∧ t.sel = s.sel ∧
    t.hist = s.hist ∧ t.unitstat = s.unitstat ∧ t.answers = s.answers ∧ t.params = s.params ∧ t.inputs = s.inputs ∧
    t.att = s.att ∧ t.idx = s.idx ∧ t.filled = s.filled ∧ t.want = s.want ∧ t.phase = s.phase ∧
    t.outcome = s.outcome ∧ t.fails = s.fails ∧ t.first = s.first ∧ t.ackStatus = s.ackStatus ∧
    t.ackValid = s.ackValid ∧ t.lastStatusWritten = s.lastStatusWritten

theorem returning_keeps (s : State) (v : Word) : HostAccessKeeps s (s.returning v) := by
  refine ⟨?_, ?_, ?_, ?_, ?_, ?_, ?_, ?_, ?_, ?_, ?_, ?_, ?_, ?_, ?_, ?_, ?_, ?_, ?_, ?_, ?_, ?_⟩ <;> rfl

theorem returningFree_keeps (s : State) : HostAccessKeeps s s.returningFree := by
  refine ⟨?_, ?_, ?_, ?_, ?_, ?_, ?_, ?_, ?_, ?_, ?_, ?_, ?_, ?_, ?_, ?_, ?_, ?_, ?_, ?_, ?_, ?_⟩ <;> rfl

/-- A write of a register changes the parameter registers and whether PEER is written, and nothing else (R22). -/
theorem regWritten_eq (s : State) (n : Nat) (v : Word) :
    s.regWritten n v = { s with regs := (s.regWritten n v).regs, peerWritten := (s.regWritten n v).peerWritten } := by
  unfold State.regWritten
  split <;> rfl

theorem regWritten_keeps (s : State) (n : Nat) (v : Word) : HostAccessKeeps s (s.regWritten n v) := by
  rw [regWritten_eq]
  refine ⟨?_, ?_, ?_, ?_, ?_, ?_, ?_, ?_, ?_, ?_, ?_, ?_, ?_, ?_, ?_, ?_, ?_, ?_, ?_, ?_, ?_, ?_⟩ <;> rfl

/-- A write of a register leaves the contents of every other one (R22). -/
theorem regValue_regWritten_of_ne (s : State) {m n : Nat} (v : Word) (h : m ≠ n) :
    (s.regWritten n v).regValue m = s.regValue m := by
  unfold State.regWritten
  split
  case h_13 => rfl
  all_goals
    unfold State.regValue
    split <;> simp_all

/-- PEER counts as written after a write of it, and as before after any other (R39). -/
theorem peerWritten_regWritten (s : State) (n : Nat) (v : Word) :
    (s.regWritten n v).peerWritten = if n = 2 then true else s.peerWritten := by
  unfold State.regWritten
  split <;> simp_all

theorem setWidth_setWidth_of_lt {w : Nat} (v : Word) (h : v.toNat < 2 ^ w) : (v.setWidth w).setWidth 32 = v := by
  apply BitVec.eq_of_toNat_eq
  rw [BitVec.toNat_setWidth, BitVec.toNat_setWidth, Nat.mod_eq_of_lt h, Nat.mod_eq_of_lt v.isLt]

/-- A parameter register reads back any value of its width (R22, R25). -/
theorem regValue_regWritten_same (s : State) {n : Nat} (v : Word) (h2 : 2 ≤ n) (h13 : n ≤ 13)
    (hv : v.toNat < 2 ^ paramWidth n) : (s.regWritten n v).regValue n = v := by
  obtain hword | hnarrow : (n = 3 ∨ n = 8 ∨ n = 11 ∨ n = 12 ∨ n = 13) ∨
      (n = 2 ∨ n = 4 ∨ n = 5 ∨ n = 6 ∨ n = 7 ∨ n = 9 ∨ n = 10) := by omega
  · rcases hword with rfl | rfl | rfl | rfl | rfl <;> rfl
  · rcases hnarrow with rfl | rfl | rfl | rfl | rfl | rfl | rfl <;> exact setWidth_setWidth_of_lt v hv

/-- Settles O22: the write stores the value, and the read that follows returns it. -/
theorem parameterRegistersReadBack : Obligations.ParameterRegistersReadBack := by
  intro s n v rest hb h2 h13 hv hi
  have hwrite := step_of_hostWrite hi hb (by omega)
  have hvalue := regValue_regWritten_same { s with inputs := .hostRead n :: rest } v h2 h13 hv
  have hpeer := peerWritten_regWritten { s with inputs := .hostRead n :: rest } n v
  have hread := step_of_hostRead (s := State.regWritten { s with inputs := .hostRead n :: rest } n v) (n := n) (rest := rest)
    (by rw [regWritten_eq]) (.inl (by rw [regWritten_eq]; exact hb))
    (regReadIsFree_eq_false (fun h => hpeer.trans (if_pos h)) (by omega))
  rw [hvalue] at hread
  refine ⟨_, (runFor_succ_of_step hwrite).trans (runFor_succ_of_step hread), ?_, rfl, hvalue, fun m hm => ?_,
    fun h => hpeer.trans (if_pos h), fun h => hpeer.trans (if_neg h), ?_⟩
  · rw [regWritten_eq]
  · exact regValue_regWritten_of_ne _ v hm
  · rw [regWritten_eq]
    exact ⟨rfl, rfl, rfl, rfl, rfl, rfl, rfl, rfl, rfl, rfl⟩

/-- Settles O23: the numbers without a register fall to the last row of the read and of the write. -/
theorem missingRegistersReadZero : Obligations.MissingRegistersReadZero := by
  intro s n v rest hb hn
  refine ⟨fun hi => ?_, fun hi => ?_⟩
  · have hvalue : s.regValue n = 0 := by
      unfold State.regValue
      split
      case h_23 => rfl
      all_goals omega
    rw [step_of_hostRead hi (.inl hb) (regReadIsFree_eq_false (by omega) (by omega)), hvalue]
  · rw [step_of_hostWrite hi hb (by omega)]
    unfold State.regWritten
    split
    case h_13 => rfl
    all_goals omega

/-! Writes of buffer elements. -/

theorem step_of_bufWrite {s : State} {sp : BufSpace} {i : Nat} {v : Byte} {rest : List Input}
    (hi : s.inputs = .bufWrite sp i v :: rest) (hb : s.busy = false) (hlt : i < sp.size) :
    step s = .next (State.bufWritten { s with inputs := rest } sp i v) := by
  rw [step_of_act hi nofun]
  exact hostBufWrite_next.2 ⟨hb, hlt, rfl⟩

/-- A write of an element changes DBUF and XLUT and nothing else (R30, R32, R33). -/
theorem bufWritten_eq (s : State) (sp : BufSpace) (i : Nat) (v : Byte) :
    s.bufWritten sp i v = { s with dbuf := (s.bufWritten sp i v).dbuf, xlut := (s.bufWritten sp i v).xlut } := by
  cases sp <;> rfl

theorem bufWritten_keeps (s : State) (sp : BufSpace) (i : Nat) (v : Byte) : HostAccessKeeps s (s.bufWritten sp i v) := by
  rw [bufWritten_eq]
  refine ⟨?_, ?_, ?_, ?_, ?_, ?_, ?_, ?_, ?_, ?_, ?_, ?_, ?_, ?_, ?_, ?_, ?_, ?_, ?_, ?_, ?_, ?_⟩ <;> rfl

/-- The buffer that is written, and the others (R30, R32, R33). -/
theorem buffer_bufWritten {s : State} {sp : BufSpace} (i : Nat) (v : Byte) (h : sp ≠ .unitstat) :
    (s.bufWritten sp i v).buffer sp = bufPut sp (s.buffer sp) i v ∧
      ∀ sp', sp' ≠ sp → (s.bufWritten sp i v).buffer sp' = s.buffer sp' := by
  cases sp with
  | unitstat => exact absurd rfl h
  | dbuf => exact ⟨rfl, fun | .unitstat, _ | .xlut, _ => rfl | .dbuf, h' => absurd rfl h'⟩
  | xlut => exact ⟨rfl, fun | .dbuf, _ | .unitstat, _ => rfl | .xlut, h' => absurd rfl h'⟩

theorem wf_buffer_of_inv {s : State} (h : s.inv = true) (sp : BufSpace) : Memory.wf sp (s.buffer sp) = true := by
  obtain ⟨hdbuf, hunit, hxlut⟩ := (buffersOk_iff s).1 ((inv_iff s).1 h).2.1
  cases sp <;> assumption

/-- Settles O24: read after write in the buffer that is written. -/
theorem bufferWriteChangesOneElement : Obligations.BufferWriteChangesOneElement := by
  intro s sp i v rest hb h hsp hlt hi
  have hsize : i < sp.size := by
    cases sp with
    | unitstat => exact absurd rfl hsp
    | _ => exact hlt
  obtain ⟨hsame, hother⟩ := buffer_bufWritten (s := { s with inputs := rest }) i v hsp
  have hget := fun j => bufGet_bufPut sp (s.buffer sp) i j v (wf_buffer_of_inv h sp)
  have hbuf : ∀ sp', State.buffer { s with inputs := rest } sp' = s.buffer sp' := fun sp' => by cases sp' <;> rfl
  rw [hbuf] at hsame
  refine ⟨_, step_of_bufWrite hi hb hsize, ?_, fun j hj => ?_, fun sp' h' => (hother sp' h').trans (hbuf sp'), ?_⟩
  · rw [hsame, hget, if_pos rfl]
  · rw [hsame, hget, if_neg hj]
  · rw [bufWritten_eq]
    exact ⟨rfl, rfl, rfl, rfl⟩

/-! The frame of an access, and the faults while BUSY = 1. -/

/-- Settles O19: a read appends to what the host has read, a write of a register changes that register, a write of an
element its buffer. -/
theorem hostAccessFrame : Obligations.HostAccessFrame := by
  rintro s t inp rest hi ht (⟨n, rfl⟩ | ⟨n, v, hn, rfl⟩ | ⟨sp, i, rfl⟩ | ⟨sp, i, v, rfl⟩) <;>
    rw [step_of_act hi nofun] at ht
  · rcases (hostRead_next ht).2 with rfl | rfl
    · exact ⟨returningFree_keeps _, fun _ => ⟨rfl, rfl, rfl, rfl⟩, nofun, nofun⟩
    · exact ⟨returning_keeps _ _, fun _ => ⟨rfl, rfl, rfl, rfl⟩, nofun, nofun⟩
  · obtain ⟨-, rfl⟩ := hostWrite_next.1 ((if_neg hn).symm.trans ht)
    refine ⟨regWritten_keeps _ n v, by simp, fun n' v' he => ?_, nofun⟩
    cases he
    refine ⟨fun m hm => regValue_regWritten_of_ne _ v hm, fun h2 => ?_, ?_⟩
    · exact (peerWritten_regWritten _ n v).trans (if_neg h2)
    · rw [regWritten_eq]
      exact ⟨rfl, rfl, rfl, rfl⟩
  · rcases (hostBufRead_next ht).2.2 with rfl | ⟨v, rfl⟩
    · exact ⟨returningFree_keeps _, fun _ => ⟨rfl, rfl, rfl, rfl⟩, nofun, nofun⟩
    · exact ⟨returning_keeps _ _, fun _ => ⟨rfl, rfl, rfl, rfl⟩, nofun, nofun⟩
  · obtain ⟨-, -, rfl⟩ := hostBufWrite_next.1 ht
    refine ⟨bufWritten_keeps _ sp i v, by simp, nofun, fun _ _ _ _ => ?_⟩
    rw [bufWritten_eq]
    exact ⟨rfl, rfl, rfl, rfl⟩

/-- A write of CMD while BUSY = 1 faults whatever its code (R23, R281). -/
theorem commandWrite_of_busy {s : State} (code : Byte) (hb : s.busy = true) :
    commandWrite code s = .fault .hostWhileBusy := by
  unfold commandWrite
  split
  next i hd => exact commandIssueWhileBusyFaults s i (decode_command_eq_ok hd).1 hb
  next => exact if_pos hb

/-- Settles O20: each access tests BUSY first. -/
theorem hostAccessWhileBusyFaults : Obligations.HostAccessWhileBusyFaults := by
  rintro s inp rest hb hi (⟨n, hn, rfl⟩ | ⟨n, v, rfl⟩ | ⟨sp, i, rfl⟩ | ⟨sp, i, v, rfl⟩) <;>
    rw [step_of_act hi nofun]
  · exact if_pos ⟨hb, hn⟩
  · by_cases hn : n = 0
    · exact (if_pos hn).trans (commandWrite_of_busy _ hb)
    · exact (if_neg hn).trans (if_pos hb)
  · exact if_pos hb
  · exact if_pos hb

end Sys2Proof.Machine
end

section
/-!
PROOFS. The I2C frames and the status read (spec/30_encoding.md R94, R95, spec/40_ackpoller.md R131 to R137,
spec/41_pagedwriter.md R152 to R154): each call at the sequencer's turn, and the end of a wait in closed form.
-/

namespace Sys2Proof.Machine

open Sys2Proof

/-! A scripted answer, and the ends of commands in closed form. -/

/-- The block takes an answer of the call's shape exactly when the script gives it (R76). -/
theorem answer_eq_iff {s : State} {a b : Answer} {rest : List Answer} {c : Call} (h : s.answers = a :: rest)
    (hb : shapeOk c b = true) : s.answer c = b ↔ a = b := by
  cases hs : shapeOk c a with
  | true => rw [answer_cons h hs]
  | false =>
    rw [answer_cons_misshapen h hs]
    refine iff_of_false ?_ ?_
    · rintro rfl
      cases c <;> cases hb
    · rintro rfl
      rw [hb] at hs
      cases hs

/-- The state after a call that the script answered and that does not move SEL. -/
def State.answered (s : State) (c : Call) (a : Answer) (rest : List Answer) : State :=
  { s with answers := rest, hist := s.hist ++ [.call c a] }

theorem afterCall_answered {s : State} {a : Answer} {rest : List Answer} {c : Call} (h : s.answers = a :: rest)
    (hc : ∀ p d, c ≠ .transceive p d) : s.afterCall c = s.answered c a rest := afterCall_of_not_transceive h hc

/-- A command that fails clears SUCCEEDED and keeps LAST_STATUS_VALID (R29, R238). -/
theorem flagsAtEnd_failure (f : Byte) {k : Kind} (hk : k ≠ .success) : flagsAtEnd f k = f &&& 0x02 := by
  simp [flagsAtEnd, hk]

theorem finish_failure (s : State) {k : Kind} (hk : k ≠ .success) :
    s.finish k = { s with
      seq := .idle, status := 0x02, res := { s.res with result := k.code, flags := s.res.flags &&& 0x02 } } := by
  rw [← flagsAtEnd_failure s.res.flags hk]
  rfl

theorem pageAborted_eq (s : State) (k : Kind) :
    s.pageAborted k = { s with
      seq := .idle
      status := 0x02
      res := { s.res with
        result := 4, cause := k.code, unit := BitVec.ofNat 16 s.idx, xfer := BitVec.ofNat 16 s.idx
        flags := s.res.flags &&& 0x02 } } := by
  rw [← flagsAtEnd_failure s.res.flags (k := .partialFailure) nofun]
  rfl

/-- A wait that fails ends WAITRDY with its kind: ATTEMPTS, the last status this wait read, and whether it read one
(R131, R137). -/
theorem ackEnd_of_waitrdy {s : State} (hc : s.cmd = 0x01) {k : Kind} (hk : k ≠ .success) :
    s.ackEnd k = { s with
      seq := .idle
      status := 0x02
      lastStatusWritten := s.lastStatusWritten || s.ackValid
      res := { s.res with
        result := k.code
        attempts := BitVec.ofNat 32 s.att
        lastStatus := if s.ackValid then s.ackStatus else s.res.lastStatus
        flags := if s.ackValid then 0x02 else 0x00 } } := by
  have hin : ¬ s.ackResults.inPgwrite = true := by rw [inPgwrite_iff, ackResults_cmd, hc]; decide
  rw [State.ackEnd, if_neg hin, ← flagsAtEnd_withValid s.res.flags s.ackValid k hk]
  rfl

/-- A wait that fails aborts PGWRITE at its page with the wait's kind as CAUSE (R153, R154). -/
theorem ackEnd_of_pgwrite {s : State} (hc : s.cmd = 0x02) {k : Kind} (hk : k ≠ .success) :
    s.ackEnd k = { s with
      seq := .idle
      status := 0x02
      lastStatusWritten := s.lastStatusWritten || s.ackValid
      res := { s.res with
        result := 4
        cause := k.code
        unit := BitVec.ofNat 16 s.idx
        xfer := BitVec.ofNat 16 s.idx
        attempts := BitVec.ofNat 32 s.att
        lastStatus := if s.ackValid then s.ackStatus else s.res.lastStatus
        flags := if s.ackValid then 0x02 else 0x00 } } := by
  have hin : s.ackResults.inPgwrite = true := (inPgwrite_iff _).2 hc
  rw [State.ackEnd, if_pos hin, if_neg hk, ← flagsAtEnd_withValid s.res.flags s.ackValid .partialFailure nofun]
  rfl

/-! I2C_PROBE. -/

theorem exec_probe_of_wait {s : State} {a : Answer} {rest : List Answer} (hq : s.seq = .ackProbe)
    (hp : s.peerWritten = true) (ha : s.answers = a :: rest) :
    exec .i2cProbe s = .next (State.ackProbed (s.answer (.write s.latch.peer [0x00]))
      (s.answered (.write s.latch.peer [0x00]) a rest)) := by
  have hcall := afterCall_answered (c := .write s.latch.peer [0x00]) ha (by simp)
  refine handI2c_next.2 (.inl ⟨by simp [hq], hp, ?_⟩)
  change State.probeAnswered _ (s.afterCall (.write s.latch.peer [0x00])) = _
  rw [hcall]
  exact if_neg (by simp [State.answered, hq])

theorem exec_probe_of_pgread {s : State} {a : Answer} {rest : List Answer} (hq : s.seq = .rdProbe)
    (hp : s.peerWritten = true) (ha : s.answers = a :: rest) :
    exec .i2cProbe s = .next (State.rdProbed (s.answer (.write s.latch.peer [0x00]))
      (s.answered (.write s.latch.peer [0x00]) a rest)) := by
  have hcall := afterCall_answered (c := .write s.latch.peer [0x00]) ha (by simp)
  refine handI2c_next.2 (.inl ⟨by simp [hq], hp, ?_⟩)
  change State.probeAnswered _ (s.afterCall (.write s.latch.peer [0x00])) = _
  rw [hcall]
  exact if_pos hq

/-- A probe counts as transferred exactly when the script counts one byte (R71, R94). -/
theorem probe_counts_iff {s : State} {a : Answer} {rest : List Answer} (ha : s.answers = a :: rest) :
    s.answer (.write s.latch.peer [0x00]) = .count 1 ↔ a = .count 1 := answer_eq_iff ha rfl

/-- Settles O34: the two moves that probe, each with its count and without it. -/
theorem probeAttemptIsCounted : Obligations.ProbeAttemptIsCounted := by
  intro s a rest hp ha
  have hcount := probe_counts_iff ha
  refine ⟨fun hq h1 => ?_, fun hq h1 hc => ?_, fun hq h1 hc => ?_, fun hq h1 => ?_, fun hq h1 => ?_⟩
  · rw [exec_probe_of_wait hq hp ha, State.ackProbed, if_pos (hcount.2 h1)]
    rfl
  · rw [exec_probe_of_wait hq hp ha, State.ackProbed, if_neg (hcount.not.2 h1),
      ackEnd_of_waitrdy (by exact hc) (k := .transportError) nofun]
    rfl
  · rw [exec_probe_of_wait hq hp ha, State.ackProbed, if_neg (hcount.not.2 h1),
      ackEnd_of_pgwrite (by exact hc) (k := .transportError) nofun]
    rfl
  · rw [exec_probe_of_pgread hq hp ha, State.rdProbed, if_pos (hcount.2 h1)]
    rfl
  · rw [exec_probe_of_pgread hq hp ha, State.rdProbed, if_neg (hcount.not.2 h1),
      finish_failure _ (k := .transportError) nofun]
    rfl

/-! I2C_PAGE. -/

theorem exec_page_of_turn {s : State} {start : Byte} {payload : List Byte} {a : Answer} {rest : List Answer}
    (hq : s.seq = .pgSend) (hp : s.peerWritten = true) (ha : s.answers = a :: rest) :
    exec (.i2cPage start payload) s = .next (State.pageSent (payload.length + 1)
      (s.answer (.write s.latch.peer (start :: payload))) (s.answered (.write s.latch.peer (start :: payload)) a rest)) := by
  have hcall := afterCall_answered (c := .write s.latch.peer (start :: payload)) ha (by simp)
  refine handI2c_next.2 (.inl ⟨by simp [hq], hp, ?_⟩)
  change State.pageSent _ _ (s.afterCall (.write s.latch.peer (start :: payload))) = _
  rw [hcall]
  simp only [encode, List.length_cons]

/-- A page counts as sent exactly when the script counts its bytes and the start address (R71, R152). -/
theorem page_counts_iff {s : State} {start : Byte} {payload : List Byte} {a : Answer} {rest : List Answer}
    (ha : s.answers = a :: rest) :
    s.answer (.write s.latch.peer (start :: payload)) = .count (payload.length + 1) ↔ a = .count (payload.length + 1) :=
  answer_eq_iff ha (by simp [shapeOk])

/-- With an attempt allowed a wait begins at its first probe, with none it ends at once (R132, R136). -/
theorem ackBegin_of_limit {s : State} (h : s.latch.retryLimit ≠ 0) :
    s.ackBegin = { s with att := 0, ackValid := false, seq := .ackProbe } := if_pos ((toNat_pos_iff _).2 h)

theorem ackBegin_of_no_limit {s : State} (h : s.latch.retryLimit = 0) :
    s.ackBegin = State.ackEnd { s with att := 0, ackValid := false } .busyTimeout :=
  if_neg (by rw [toNat_pos_iff]; exact not_not_intro h)

/-- Settles O35: the full count begins the wait, which a limit of 0 ends at once; any other answer aborts. -/
theorem pageFrameIsSentOnce : Obligations.PageFrameIsSentOnce := by
  intro s start payload a rest hq hp ha
  have hcount := page_counts_iff (start := start) (payload := payload) ha
  have hexec := exec_page_of_turn (start := start) (payload := payload) hq hp ha
  refine ⟨fun h1 hlim => ?_, fun h1 hlim hc => ?_, fun h1 => ?_⟩
  · rw [hexec, State.pageSent, if_pos (hcount.2 h1), ackBegin_of_limit (by exact hlim)]
    rfl
  · rw [hexec, State.pageSent, if_pos (hcount.2 h1), ackBegin_of_no_limit (by exact hlim),
      ackEnd_of_pgwrite (by exact hc) (k := .busyTimeout) nofun]
    simp only [Bool.or_false, Bool.false_eq_true, if_false]
    rfl
  · rw [hexec, State.pageSent, if_neg (hcount.not.2 h1), pageAborted_eq]
    rfl

/-! The status read and its classification. -/

/-- The status read is one call, and `statusAnswered` says how it goes on (R132). -/
theorem step_ackStatus {s : State} {a : Answer} {rest : List Answer} (hi : s.inputs = []) (hb : s.busy = true)
    (hq : s.seq = .ackStatus) (hp : s.peerWritten = true) (ha : s.answers = a :: rest) :
    step s = .next (State.statusAnswered (s.answer (.getStatus s.latch.peer))
      (s.answered (.getStatus s.latch.peer) a rest)) := by
  have hstep : step s = readStatus s := by
    rw [step_busy hi hb]
    simp only [seqStep, State.nextMove, hq]
  rw [hstep, readStatus, withPeer_of_written hp, afterCall_answered ha (by simp)]

theorem answer_getStatus {s : State} {c : Byte} {rest : List Answer} (ha : s.answers = .status c :: rest) :
    s.answer (.getStatus s.latch.peer) = .status c := answer_cons ha rfl

/-- Anything but a status counts as `Err` (R76). -/
theorem answer_getStatus_err {s : State} {a : Answer} {rest : List Answer} (ha : s.answers = a :: rest)
    (h : ∀ c, a ≠ .status c) : s.answer (.getStatus s.latch.peer) = .err := by
  refine answer_cons_misshapen ha ?_
  cases a with
  | status c => exact absurd rfl (h c)
  | _ => rfl

theorem statusAnswered_err_of_wait {s : State} (hc : s.cmd ≠ 0x03) :
    State.statusAnswered .err s = s.ackEnd .transportError :=
  if_neg ((inPgread_iff s).not.2 hc)

theorem statusAnswered_err_of_pgread {s : State} (hc : s.cmd = 0x03) :
    State.statusAnswered .err s = s.finish .transportError := if_pos ((inPgread_iff s).2 hc)

theorem statusAnswered_status_of_wait {s : State} {c : Byte} (hc : s.cmd ≠ 0x03) :
    State.statusAnswered (.status c) s = State.ackClassified c s := if_neg ((inPgread_iff s).not.2 hc)

theorem statusAnswered_status_of_pgread {s : State} {c : Byte} (hc : s.cmd = 0x03) :
    State.statusAnswered (.status c) s = { s with seq := .rdBulk } := if_pos ((inPgread_iff s).2 hc)

/-- The wait after it has read a status (R132). -/
def State.statusRead (s : State) (c : Byte) : State := { s with ackStatus := c, ackValid := true }

theorem ackClassified_of_ack {s : State} {c : Byte} (h : classify s.params c = .ack) :
    State.ackClassified c s = (s.statusRead c).ackEnd .success := by
  simp only [State.ackClassified, h]
  rfl

theorem ackClassified_of_ne_ack {s : State} {c : Byte} (h : classify s.params c ≠ .ack) :
    State.ackClassified c s = (s.statusRead c).ackRetry := by
  unfold State.ackClassified
  cases hc : classify s.params c with
  | ack => exact absurd hc h
  | _ => rfl

theorem ackRetry_of_lt {s : State} (h : s.att < s.latch.retryLimit.toNat) : s.ackRetry = { s with seq := .ackProbe } :=
  if_pos h

theorem ackRetry_of_ge {s : State} (h : s.latch.retryLimit.toNat ≤ s.att) : s.ackRetry = s.ackEnd .busyTimeout :=
  if_neg (Nat.not_lt.2 h)

/-- An acknowledged page is followed by the next one, if there is one (R152). -/
theorem ackEnd_success_of_next {s : State} (hc : s.cmd = 0x02) (hlt : s.idx + 1 < s.latch.pageCount) :
    s.ackEnd .success = { s.ackResults with idx := s.idx + 1, seq := .pgSend } := by
  rw [State.ackEnd, if_pos ((inPgwrite_iff s.ackResults).2 hc), if_pos rfl]
  exact if_pos hlt

theorem ackEnd_success_of_last {s : State} (hc : s.cmd = 0x02) (hle : s.latch.pageCount ≤ s.idx + 1) :
    s.ackEnd .success =
      State.finish { s.ackResults with res.xfer := BitVec.ofNat 16 s.latch.pageCount } .success := by
  rw [State.ackEnd, if_pos ((inPgwrite_iff s.ackResults).2 hc), if_pos rfl]
  exact if_neg (Nat.not_lt.2 hle)

theorem ackEnd_of_not_pgwrite {s : State} (hc : s.cmd ≠ 0x02) (k : Kind) : s.ackEnd k = s.ackResults.finish k :=
  if_neg ((inPgwrite_iff _).not.2 hc)

/-- What the end of a wait keeps, whichever command it returns to. -/
theorem ackEnd_keeps (s : State) (k : Kind) :
    (s.ackEnd k).att = s.att ∧ (s.ackEnd k).dbuf = s.dbuf ∧ (s.ackEnd k).regs = s.regs ∧
      (s.ackEnd k).ackStatus = s.ackStatus ∧ (s.ackEnd k).ackValid = s.ackValid := by
  unfold State.ackEnd State.pageDone
  split_ifs <;> exact ⟨rfl, rfl, rfl, rfl, rfl⟩

theorem ackClassified_keeps (s : State) (c : Byte) :
    (State.ackClassified c s).att = s.att ∧ (State.ackClassified c s).dbuf = s.dbuf ∧
      (State.ackClassified c s).regs = s.regs ∧ (State.ackClassified c s).ackStatus = c ∧
      (State.ackClassified c s).ackValid = true := by
  by_cases h : classify s.params c = .ack
  · rw [ackClassified_of_ack h]
    exact ackEnd_keeps (s.statusRead c) _
  · rw [ackClassified_of_ne_ack h]
    unfold State.ackRetry
    split_ifs
    · exact ⟨rfl, rfl, rfl, rfl, rfl⟩
    · exact ackEnd_keeps (s.statusRead c) _

/-- The classification is the first of busy, idle and acknowledged that applies (R133). -/
theorem classify_cases (p : Params) (c : Byte) :
    (p.isBusy c = true → classify p c = .busy) ∧
    (p.isBusy c = false → p.isIdle c = true → classify p c = .idle) ∧
    (p.isBusy c = false → p.isIdle c = false → p.isAddrNacked c = false → classify p c = .ack) ∧
    (p.isBusy c = false → p.isIdle c = false → p.isAddrNacked c = true → classify p c = .nack) := by
  unfold classify
  refine ⟨fun h => ?_, fun h h' => ?_, fun h h' h'' => ?_, fun h h' h'' => ?_⟩ <;> simp [*]

/-- The flags of an acknowledged wait while the command goes on: LAST_STATUS_VALID is set (R152). -/
theorem flagsWithValid_true_getLsbD_one (f : Byte) : (flagsWithValid f true).getLsbD 1 = true := by
  revert f; decide

/-- A wait of WAITRDY that succeeds ends the command with it (R131). -/
theorem ackEnd_success_of_waitrdy {s : State} (hc : s.cmd = 0x01) (hv : s.ackValid = true) :
    (s.ackEnd .success).seq = .idle ∧ (s.ackEnd .success).status = 0x02 ∧ (s.ackEnd .success).res = { s.res with
      result := 0, attempts := BitVec.ofNat 32 s.att, lastStatus := s.ackStatus, flags := 0x03 } := by
  have hflags := flagsAtEnd_success_withValid s.res.flags s.ackValid
  rw [hv, if_pos rfl] at hflags
  rw [ackEnd_of_not_pgwrite (by rw [hc]; decide), ← hflags]
  refine ⟨rfl, rfl, ?_⟩
  rw [finish_res, ackResults_res, hv]
  rfl

/-- The wait of the last page ends PGWRITE with Success and the page count (R152). -/
theorem ackEnd_success_of_last_effect {s : State} (hc : s.cmd = 0x02) (hle : s.latch.pageCount ≤ s.idx + 1)
    (hv : s.ackValid = true) :
    (s.ackEnd .success).seq = .idle ∧ (s.ackEnd .success).status = 0x02 ∧ (s.ackEnd .success).res = { s.res with
      result := 0, attempts := BitVec.ofNat 32 s.att, lastStatus := s.ackStatus, flags := 0x03
      xfer := BitVec.ofNat 16 s.latch.pageCount } := by
  have hflags := flagsAtEnd_success_withValid s.res.flags s.ackValid
  rw [hv, if_pos rfl] at hflags
  rw [ackEnd_success_of_last hc hle, ← hflags]
  refine ⟨rfl, rfl, ?_⟩
  simp only [finish_res, ackResults_res, hv, if_true]
  rfl

/-- What a wait that succeeded leaves, whichever command it returns to (R131, R152). -/
theorem ackEnd_success_effect {s : State} (hcmd : s.cmd = 0x01 ∨ s.cmd = 0x02) (hv : s.ackValid = true) :
    (s.ackEnd .success).res.lastStatus = s.ackStatus ∧ (s.ackEnd .success).lastStatusValid = true ∧
      (s.ackEnd .success).res.attempts = BitVec.ofNat 32 s.att ∧
      (s.cmd = 0x01 ∨ s.latch.pageCount ≤ s.idx + 1 →
        (s.ackEnd .success).seq = .idle ∧ (s.ackEnd .success).status = 0x02 ∧ (s.ackEnd .success).res.result = 0 ∧
          (s.ackEnd .success).res.flags = 0x03) ∧
      (s.cmd = 0x02 → s.idx + 1 < s.latch.pageCount →
        (s.ackEnd .success).seq = .pgSend ∧ (s.ackEnd .success).idx = s.idx + 1 ∧
          (s.ackEnd .success).status = s.status) := by
  have hthree : (0x03 : Byte).getLsbD 1 = true := by decide
  rcases hcmd with hc | hc
  · obtain ⟨hseq, hstatus, hres⟩ := ackEnd_success_of_waitrdy hc hv
    rw [State.lastStatusValid, hres]
    exact ⟨rfl, hthree, rfl, fun _ => ⟨hseq, hstatus, rfl, rfl⟩, fun h2 => absurd (hc.symm.trans h2) (by decide)⟩
  · rcases Nat.lt_or_ge (s.idx + 1) s.latch.pageCount with hlt | hge
    · rw [ackEnd_success_of_next hc hlt]
      refine ⟨by simp [hv], ?_, rfl, ?_, fun _ _ => ⟨rfl, rfl, rfl⟩⟩
      · simp only [State.lastStatusValid, ackResults_res, hv, flagsWithValid_true_getLsbD_one]
      · rintro (h1 | hge)
        · exact absurd (hc.symm.trans h1) (by decide)
        · omega
    · obtain ⟨hseq, hstatus, hres⟩ := ackEnd_success_of_last_effect hc hge hv
      rw [State.lastStatusValid, hres]
      exact ⟨rfl, hthree, rfl, fun _ => ⟨hseq, hstatus, rfl, rfl⟩, fun _ hlt => absurd hlt (Nat.not_lt.2 hge)⟩

/-- Settles O44: the classification, the status read that answers no status, and the one that answers a status. -/
theorem statusClassification : Obligations.StatusClassification := by
  refine ⟨classify_cases, ?noStatus, ?status⟩
  case noStatus =>
    rintro s a rest e hi hb hq hp ha rfl
    have hstep := step_ackStatus hi hb hq hp ha
    refine ⟨fun h hc => ?_, fun h hc => ?_, fun h hc => ?_, ?_⟩
    · have hne : s.cmd ≠ 0x03 := by rw [hc]; decide
      rw [hstep, answer_getStatus_err ha h, statusAnswered_err_of_wait (by exact hne),
        ackEnd_of_waitrdy (by exact hc) (k := .transportError) nofun]
      rfl
    · have hne : s.cmd ≠ 0x03 := by rw [hc]; decide
      rw [hstep, answer_getStatus_err ha h, statusAnswered_err_of_wait (by exact hne),
        ackEnd_of_pgwrite (by exact hc) (k := .transportError) nofun]
      rfl
    · rw [hstep, answer_getStatus_err ha h, statusAnswered_err_of_pgread (by exact hc),
        finish_failure _ (k := .transportError) nofun]
      rfl
    · rintro ⟨c, rfl⟩ hc
      rw [hstep, answer_getStatus ha, statusAnswered_status_of_pgread (by exact hc)]
      rfl
  case status =>
    intro s c rest hi hb hq hcmd hp ha
    have hne : s.cmd ≠ 0x03 := by rcases hcmd with h | h <;> (rw [h]; decide)
    have hstep := step_ackStatus hi hb hq hp ha
    rw [answer_getStatus ha, statusAnswered_status_of_wait (by exact hne)] at hstep
    obtain ⟨hatt, hdbuf, hregs, hstatus, hvalid⟩ :=
      ackClassified_keeps (s.answered (.getStatus s.latch.peer) (.status c) rest) c
    have hhist := (ackClassified_same c (s.answered (.getStatus s.latch.peer) (.status c) rest)).hist
    refine ⟨_, hstep, hhist, hatt, hdbuf, hregs, hstatus, hvalid, fun hk hlt => ?_, fun hk hge => ?_, fun hk => ?_⟩
    · rw [ackClassified_of_ne_ack (by exact hk), ackRetry_of_lt (by exact hlt)]
      exact ⟨rfl, rfl, rfl, rfl⟩
    · rw [ackClassified_of_ne_ack (by exact hk), ackRetry_of_ge (by exact hge)]
      rcases hcmd with hc | hc
      · rw [ackEnd_of_waitrdy (by exact hc) (k := .busyTimeout) nofun]
        exact ⟨rfl, rfl, rfl, rfl, rfl, fun _ => rfl, fun h2 => absurd (hc.symm.trans h2) (by decide)⟩
      · rw [ackEnd_of_pgwrite (by exact hc) (k := .busyTimeout) nofun]
        exact ⟨rfl, rfl, rfl, rfl, rfl, fun h1 => absurd (hc.symm.trans h1) (by decide), fun _ => ⟨rfl, rfl, rfl, rfl⟩⟩
    · rw [ackClassified_of_ack (by exact hk)]
      exact ackEnd_success_effect (s := State.statusRead _ c) hcmd rfl

end Sys2Proof.Machine
end

section
/-!
PROOFS. The serial and slave frames (spec/30_encoding.md R100 to R106, spec/42_serial_eeprom.md R171 to R188,
spec/43_slave_frame.md R220): each transceive at the sequencer's turn, complete, short or failed.
-/

namespace Sys2Proof.Machine

open Sys2Proof

/-! A transceive at the sequencer's turn. -/

/-- The state after a transceive that the script answered. -/
def State.transceived (s : State) (p : List Byte) (d : Bool) (a : Answer) (rest : List Answer) (sel : Sel) : State :=
  { s with answers := rest, hist := s.hist ++ [.call (.transceive p d) a], sel := sel }

theorem answer_of_reply {s : State} {a : Answer} {rest : List Answer} {p : List Byte} {d : Bool}
    (h : s.answers = a :: rest) (ha : isReplyOf p.length a) : s.answer (.transceive p d) = a :=
  answer_cons h (shapeOk_transceive_iff.2 ha)

theorem answer_of_not_reply {s : State} {a : Answer} {rest : List Answer} {p : List Byte} {d : Bool}
    (h : s.answers = a :: rest) (ha : ¬ isReplyOf p.length a) : s.answer (.transceive p d) = .err :=
  answer_cons_misshapen h (Bool.eq_false_iff.2 (shapeOk_transceive_iff.not.2 ha))

/-- A frame at its turn that was answered with a reply: SEL follows `deassertAfter` (R34, R73). -/
theorem handFrame_of_reply {s : State} {a : Answer} {rest : List Answer} {p : List Byte} {d turn : Bool}
    {k : Answer → State → State} (ht : turn = true) (h : s.answers = a :: rest) (ha : isReplyOf p.length a) :
    handFrame (.transceive p d) turn k s = .next (k a (s.transceived p d a rest (Sel.ofDeassert d))) := by
  rw [handFrame_turn ht, answer_of_reply h ha, afterCall_of_reply h ha]
  rfl

/-- A frame at its turn with any other answer, which counts as `Err`: SEL is unknown (R34, R76). -/
theorem handFrame_of_not_reply {s : State} {a : Answer} {rest : List Answer} {p : List Byte} {d turn : Bool}
    {k : Answer → State → State} (ht : turn = true) (h : s.answers = a :: rest) (ha : ¬ isReplyOf p.length a) :
    handFrame (.transceive p d) turn k s = .next (k .err (s.transceived p d a rest .unknown)) := by
  rw [handFrame_turn ht, answer_of_not_reply h ha, afterCall_of_not_reply h ha]
  rfl

/-! SER_EWEN. -/

/-- Settles O36: complete, short, and no reply at all. -/
theorem writeEnableFrameEndsTheCommand : Obligations.WriteEnableFrameEndsTheCommand := by
  intro s rest hq
  refine ⟨fun r n hlen hn ha => ?_, fun a hbad ha => ?_⟩
  · refine (handFrame_of_reply (p := encode .serEwen) (decide_eq_true hq) ha ⟨r, n, hlen, hn, rfl⟩).trans ?_
    by_cases h2 : n = 2
    · subst h2
      rfl
    · have hfail : fullReply 2 (.reply r n) = none := if_neg h2
      simp only [State.enableAnswered, hfail, if_neg h2]
      rfl
  · refine (handFrame_of_not_reply (p := encode .serEwen) (decide_eq_true hq) ha hbad).trans (congrArg _ ?_)
    exact finish_failure _ nofun

/-! SER_WRITE. -/

theorem writeCommandAnswered_of_full {s : State} {a : Answer} (h : (fullReply 3 a).isSome = true) :
    State.writeCommandAnswered a s = { s with
      att := 0, outcome := .busyTimeout, seq := if s.latch.pollLimit = 0 then .wrCleanup else .wrPoll } := by
  refine (if_pos h).trans ?_
  by_cases hl : s.latch.pollLimit = 0
  · rw [if_pos hl, if_neg (by rw [toNat_pos_iff]; exact not_not_intro hl)]
  · rw [if_neg hl, if_pos ((toNat_pos_iff _).2 hl)]

theorem writeCommandAnswered_of_short_cleanup {s : State} {a : Answer} (h : (fullReply 3 a).isSome = false)
    (hu : s.params.cleanupAfterCmdFailure = true) :
    State.writeCommandAnswered a s = { s with att := 0, outcome := .transportError, seq := .wrCleanup } :=
  (if_neg (by simp [h])).trans (if_pos hu)

theorem writeCommandAnswered_of_short {s : State} {a : Answer} (h : (fullReply 3 a).isSome = false)
    (hu : s.params.cleanupAfterCmdFailure = false) :
    State.writeCommandAnswered a s = State.writeEnd { s with att := 0 } .transportError :=
  (if_neg (by simp [h])).trans (if_neg (by simp [hu]))

/-- Whatever the answer, the frame of a write command is one transceive, complete or not, and SEL follows it. -/
theorem exec_serWrite_of_answer {s : State} {a : SerAddr} {d : Byte} {ans : Answer} {rest : List Answer} {full : Bool}
    {sel : Sel} (hq : s.seq = .wrCmd) (ha : s.answers = ans :: rest)
    (h : (∃ r : List Byte, r.length = 3 ∧ ans = .reply r 3 ∧ full = true ∧ sel = .deasserted) ∨
      (∃ (r : List Byte) (n : Nat), r.length = 3 ∧ n < 3 ∧ ans = .reply r n ∧ full = false ∧ sel = .deasserted) ∨
      (¬ isReplyOf 3 ans ∧ full = false ∧ sel = .unknown)) :
    ∃ b : Answer, (fullReply 3 b).isSome = full ∧ exec (.serWrite a d) s = .next (State.writeCommandAnswered b
      (s.transceived [0x02, 0x80 ||| a.setWidth 8, d] true ans rest sel)) := by
  rcases h with ⟨r, hlen, rfl, rfl, rfl⟩ | ⟨r, n, hlen, hn, rfl, rfl, rfl⟩ | ⟨hbad, rfl, rfl⟩
  · exact ⟨_, rfl, handFrame_of_reply (decide_eq_true hq) ha ⟨r, 3, hlen, Nat.le_refl 3, rfl⟩⟩
  · refine ⟨_, ?_, handFrame_of_reply (decide_eq_true hq) ha ⟨r, n, hlen, Nat.le_of_lt hn, rfl⟩⟩
    rw [fullReply, if_neg (by omega)]
    rfl
  · exact ⟨_, rfl, handFrame_of_not_reply (decide_eq_true hq) ha hbad⟩

/-- Settles O37: on to the poll with a full count, otherwise to the cleanup under U5 or to the end of the unit. -/
theorem writeFrameStartsThePoll : Obligations.WriteFrameStartsThePoll := by
  rintro s a d ans rest hq ha e full sel rfl h
  obtain ⟨b, hfull, hexec⟩ := exec_serWrite_of_answer (a := a) (d := d) hq ha h
  refine ⟨fun hf => ?_, fun hf hu => ?_, fun hf hu hc => ?_, fun hf hu hc hinv => ?_⟩
  · rw [hexec, writeCommandAnswered_of_full (hfull.trans hf)]
    rfl
  · rw [hexec, writeCommandAnswered_of_short_cleanup (hfull.trans hf) (by exact hu)]
    rfl
  · have hne : s.cmd ≠ 0x13 := by rw [hc]; decide
    rw [hexec, writeCommandAnswered_of_short (hfull.trans hf) (by exact hu), writeEnd_of_single (by exact hne),
      finish_failure _ (k := .transportError) nofun]
    rfl
  · rw [writeCommandAnswered_of_short (hfull.trans hf) (by exact hu)] at hexec
    have hsame := writeEnd_same
      { s.transceived [0x02, 0x80 ||| a.setWidth 8, d] true ans rest sel with att := 0 } .transportError
    obtain ⟨hlog, hxfer, hattempts, hregs, hdbuf⟩ := writeEnd_of_sweep_effect
      (s := { s.transceived [0x02, 0x80 ||| a.setWidth 8, d] true ans rest sel with att := 0 }) hc
      (wf_unitstat_of_inv (s := s) hinv) .transportError
    exact ⟨_, hexec, hsame.hist, hsame.sel, hsame.answers, (hlog s.idx).trans (if_pos rfl),
      fun j hj => (hlog j).trans (if_neg hj), hxfer, hattempts, hregs, hdbuf⟩

/-! SER_POLL. -/

/-- A chunk that did not transfer its ten bytes fails the poll (R176). -/
theorem pollAnswered_of_short {s : State} {a : Answer} (h : fullReply 10 a = none) :
    State.pollAnswered a s = { s with att := s.att + 1, outcome := .transportError, seq := .wrCleanup } := by
  simp only [State.pollAnswered, h]

/-- A nonzero byte ends the poll with Success (R104, R176). -/
theorem pollAnswered_of_done {s : State} {r : List Byte} (hlen : r.length = 10) (hr : r ≠ List.replicate 10 0x00) :
    State.pollAnswered (.reply r 10) s = { s with att := s.att + 1, outcome := .success, seq := .wrCleanup } :=
  if_pos ((anyNonzero_iff r hlen).2 hr)

/-- Ten zero bytes mean another chunk if the bound allows one, else BusyTimeout (R176, R180). -/
theorem pollAnswered_of_busy (s : State) :
    State.pollAnswered stillBusy s =
      if s.att + 1 < s.latch.pollLimit.toNat then { s with att := s.att + 1, seq := .wrPoll }
      else { s with att := s.att + 1, outcome := .busyTimeout, seq := .wrCleanup } := by
  have hzero : ¬ anyNonzero (List.replicate 10 0x00) = true := by decide
  have hfull : fullReply 10 stillBusy = some (List.replicate 10 0x00) := rfl
  simp only [State.pollAnswered, hfull, if_neg hzero]

/-- Settles O38: short, done, busy with a chunk left and without, and no reply at all. -/
theorem pollChunkDecidesTheOutcome : Obligations.PollChunkDecidesTheOutcome := by
  intro s rest hq
  refine ⟨fun r n hlen hn ha => ?_, fun a hbad ha => ?_⟩
  · refine (handFrame_of_reply (p := encode .serPoll) (decide_eq_true hq) ha ⟨r, n, hlen, hn, rfl⟩).trans (congrArg _ ?_)
    by_cases h10 : n = 10
    · subst h10
      by_cases hr : r = List.replicate 10 0x00
      · subst hr
        refine (pollAnswered_of_busy _).trans ?_
        by_cases hlim : s.att + 1 < s.latch.pollLimit.toNat
        · simp only [hlim, ne_eq, not_true_eq_false, and_self, if_true, if_false]
          exact if_pos hlim
        · simp only [hlim, ne_eq, not_true_eq_false, and_false, if_false]
          exact if_neg hlim
      · rw [pollAnswered_of_done hlen hr]
        simp only [hr, ne_eq, not_true_eq_false, not_false_eq_true, false_and, and_false, if_true, if_false]
        rfl
    · have hshort : fullReply 10 (.reply r n) = none := if_neg h10
      rw [pollAnswered_of_short hshort]
      simp only [h10, ne_eq, not_false_eq_true, false_and, if_true, if_false]
      rfl
  · refine (handFrame_of_not_reply (p := encode .serPoll) (decide_eq_true hq) ha hbad).trans (congrArg _ ?_)
    exact pollAnswered_of_short rfl

/-! SER_READ and its reply. -/

/-- ReadByte of a SREAD returns to it: the value goes to SDATA, and the command ends (R181). -/
theorem readDone_of_single {s : State} (hc : s.cmd ≠ 0x14) (v : Byte) :
    s.readDone v = State.finish { s with regs.sdata := v } .success := if_neg ((inSweepRead_iff s).not.2 hc)

theorem readDone_of_sweep {s : State} (hc : s.cmd = 0x14) (v : Byte) :
    s.readDone v = State.unitEnd { s with dbuf := bufPut .dbuf s.dbuf s.idx v } .success :=
  if_pos ((inSweepRead_iff s).2 hc)

theorem readFailed_of_single {s : State} (hc : s.cmd ≠ 0x14) : s.readFailed = s.finish .transportError :=
  if_neg ((inSweepRead_iff s).not.2 hc)

theorem readFailed_of_sweep {s : State} (hc : s.cmd = 0x14) : s.readFailed = s.unitEnd .transportError :=
  if_pos ((inSweepRead_iff s).2 hc)

/-- A unit of a sweep logs its own address and no other (R187, R188). -/
theorem unitEnd_log {s : State} (hwf : Memory.wf .unitstat s.unitstat = true) (k : Kind) (j : Nat) :
    bufGet .unitstat (s.unitEnd k).unitstat j = if j = s.idx then some k.code else bufGet .unitstat s.unitstat j := by
  rw [(unitEnd_effect s k).1]
  exact bufGet_bufPut .unitstat s.unitstat s.idx j k.code hwf

/-- The value of a read goes to the address's own DBUF byte and log entry, and to no other (R188). -/
theorem readDone_of_sweep_effect {s : State} (hc : s.cmd = 0x14) (hwf : Memory.wf .unitstat s.unitstat = true) (v : Byte) :
    (∀ j, bufGet .dbuf (s.readDone v).dbuf j = if j = s.idx then some v else bufGet .dbuf s.dbuf j) ∧
    (∀ j, bufGet .unitstat (s.readDone v).unitstat j = if j = s.idx then some 0 else bufGet .unitstat s.unitstat j) ∧
    (s.readDone v).res.xfer = BitVec.ofNat 16 (s.idx + 1) ∧ (s.readDone v).regs = s.regs := by
  rw [readDone_of_sweep hc]
  obtain ⟨-, hxfer, -, hregs, hdbuf, -⟩ := unitEnd_effect { s with dbuf := bufPut .dbuf s.dbuf s.idx v } .success
  refine ⟨fun j => ?_, fun j => unitEnd_log (s := { s with dbuf := bufPut .dbuf s.dbuf s.idx v }) hwf .success j, hxfer,
    hregs⟩
  rw [hdbuf, bufGet_dbuf, memLookup_bufPut_dbuf, bufGet_dbuf]

/-- A failed read logs its address and leaves DBUF alone (R188, R189). -/
theorem readFailed_of_sweep_effect {s : State} (hc : s.cmd = 0x14) (hwf : Memory.wf .unitstat s.unitstat = true) :
    s.readFailed.dbuf = s.dbuf ∧
    (∀ j, bufGet .unitstat s.readFailed.unitstat j = if j = s.idx then some 1 else bufGet .unitstat s.unitstat j) ∧
    s.readFailed.res.xfer = BitVec.ofNat 16 (s.idx + 1) ∧ s.readFailed.regs = s.regs := by
  rw [readFailed_of_sweep hc]
  obtain ⟨-, hxfer, -, hregs, hdbuf, -⟩ := unitEnd_effect s .transportError
  exact ⟨hdbuf, fun j => unitEnd_log hwf .transportError j, hxfer, hregs⟩

/-- A read that transferred its four bytes carries a value, a shorter one has failed (R103, R181). -/
theorem readAnswered_of_reply (s : State) (r0 r1 r2 r3 : Byte) (n : Nat) :
    State.readAnswered (.reply [r0, r1, r2, r3] n) s =
      if n = 4 then s.readDone (readReplyValue r2 r3) else s.readFailed := by
  by_cases h4 : n = 4
  · simp [State.readAnswered, fullReply, h4]
  · simp [State.readAnswered, fullReply, h4]

theorem readAnswered_err (s : State) : State.readAnswered .err s = s.readFailed := rfl

theorem exec_serRead_of_reply {s : State} {a : SerAddr} {r0 r1 r2 r3 : Byte} {n : Nat} {rest : List Answer}
    (hq : s.seq = .rdCmd) (hn : n ≤ 4) (ha : s.answers = .reply [r0, r1, r2, r3] n :: rest) :
    exec (.serRead a) s = .next (State.readAnswered (.reply [r0, r1, r2, r3] n)
      (s.transceived (encode (.serRead a)) true (.reply [r0, r1, r2, r3] n) rest .deasserted)) :=
  handFrame_of_reply (decide_eq_true hq) ha ⟨[r0, r1, r2, r3], n, rfl, hn, rfl⟩

theorem exec_serRead_of_not_reply {s : State} {a : SerAddr} {ans : Answer} {rest : List Answer}
    (hq : s.seq = .rdCmd) (hbad : ¬ isReplyOf 4 ans) (ha : s.answers = ans :: rest) :
    exec (.serRead a) s = .next (State.readFailed (s.transceived (encode (.serRead a)) true ans rest .unknown)) :=
  handFrame_of_not_reply (decide_eq_true hq) ha hbad

/-- The address byte of a read needs no masking: an address has seven bits (R102). -/
theorem encode_serRead (a : SerAddr) : encode (.serRead a) = [0x03, a.setWidth 8, 0x00, 0x00] := by
  have hmask : a.setWidth 8 &&& 0x7F#8 = a.setWidth 8 := by
    revert a; decide
  change [0x03, a.setWidth 8 &&& 0x7F#8, 0x00, 0x00] = _
  rw [hmask]

/-- Settles O40: complete, short and failed, for SREAD and for an address of the sweep. -/
theorem readFrameStoresTheValue : Obligations.ReadFrameStoresTheValue := by
  intro s a rest hq
  refine ⟨fun r0 r1 r2 r3 n hn ha hc => ?_, fun ans hbad ha hc => ?_, fun ans hbad ha hc hinv => ?_,
    fun r0 r1 r2 r3 n hn ha hc hinv => ?_⟩
  · have hne : s.cmd ≠ 0x14 := by rw [hc]; decide
    rw [exec_serRead_of_reply hq hn ha, readAnswered_of_reply, encode_serRead]
    by_cases h4 : n = 4
    · subst h4
      rw [if_pos rfl, readDone_of_single (by exact hne)]
      rfl
    · simp only [if_neg h4]
      rw [readFailed_of_single (by exact hne)]
      rfl
  · have hne : s.cmd ≠ 0x14 := by rw [hc]; decide
    rw [exec_serRead_of_not_reply hq hbad ha, encode_serRead, readFailed_of_single (by exact hne),
      finish_failure _ (k := .transportError) nofun]
    rfl
  · have hexec := exec_serRead_of_not_reply (a := a) hq hbad ha
    rw [encode_serRead] at hexec
    have hsame := readFailed_same (s.transceived [0x03, a.setWidth 8, 0x00, 0x00] true ans rest .unknown)
    obtain ⟨hdbuf, hlog, hxfer, hregs⟩ := readFailed_of_sweep_effect
      (s := s.transceived [0x03, a.setWidth 8, 0x00, 0x00] true ans rest .unknown) hc (wf_unitstat_of_inv hinv)
    exact ⟨_, hexec, hsame.sel, hsame.answers, hsame.hist, hregs, hdbuf, (hlog _).trans (if_pos rfl),
      fun j hj => (hlog j).trans (if_neg hj), hxfer⟩
  · have hexec := exec_serRead_of_reply (a := a) hq hn ha
    rw [encode_serRead, readAnswered_of_reply] at hexec
    by_cases h4 : n = 4
    · rw [if_pos h4] at hexec
      simp only [if_pos h4]
      have hsame := readDone_same
        (s.transceived [0x03, a.setWidth 8, 0x00, 0x00] true (.reply [r0, r1, r2, r3] n) rest .deasserted)
        (readReplyValue r2 r3)
      obtain ⟨hdbuf, hlog, hxfer, hregs⟩ := readDone_of_sweep_effect
        (s := s.transceived [0x03, a.setWidth 8, 0x00, 0x00] true (.reply [r0, r1, r2, r3] n) rest .deasserted) hc
        (wf_unitstat_of_inv hinv) (readReplyValue r2 r3)
      exact ⟨_, hexec, hsame.hist, hregs, (hdbuf _).trans (if_pos rfl), fun j hj => (hdbuf j).trans (if_neg hj),
        (hlog _).trans (if_pos rfl), fun j hj => (hlog j).trans (if_neg hj), hxfer⟩
    · rw [if_neg h4] at hexec
      simp only [if_neg h4]
      have hsame := readFailed_same
        (s.transceived [0x03, a.setWidth 8, 0x00, 0x00] true (.reply [r0, r1, r2, r3] n) rest .deasserted)
      obtain ⟨hdbuf, hlog, hxfer, hregs⟩ := readFailed_of_sweep_effect
        (s := s.transceived [0x03, a.setWidth 8, 0x00, 0x00] true (.reply [r0, r1, r2, r3] n) rest .deasserted) hc
        (wf_unitstat_of_inv hinv)
      exact ⟨_, hexec, hsame.hist, hregs, by rw [hdbuf]; rfl, fun j hj => by rw [hdbuf]; rfl,
        (hlog _).trans (if_pos rfl), fun j hj => (hlog j).trans (if_neg hj), hxfer⟩

/-- Settles O41: the same ends of ReadByte, given the value, and no effect at any other state (log 18). -/
theorem readReplyIsStored : Obligations.ReadReplyIsStored := by
  intro s v
  refine ⟨fun hq hc => ?_, fun hq hc hinv => ?_, fun hq => if_neg hq⟩
  · refine (if_pos hq).trans (congrArg _ ?_)
    exact readDone_of_single (by rw [hc]; decide) v
  · obtain ⟨hdbuf, hlog, hxfer, hregs⟩ := readDone_of_sweep_effect hc (wf_unitstat_of_inv hinv) v
    exact ⟨_, if_pos hq, (hdbuf _).trans (if_pos rfl), fun j hj => (hdbuf j).trans (if_neg hj),
      (hlog _).trans (if_pos rfl), fun j hj => (hlog j).trans (if_neg hj), hxfer, hregs, (readDone_same s v).hist⟩

/-! SLAVE_FRAME. -/

/-- Settles O42: the full count leaves the post-delay, any other answer ends the command. -/
theorem replyFrameIsSentOnce : Obligations.ReplyFrameIsSentOnce := by
  intro s bytes a rest hq hp ha
  have hcount : s.answer (.slaveWrite bytes) = .count bytes.length ↔ a = .count bytes.length :=
    answer_eq_iff ha (by simp [shapeOk])
  have hexec : exec (.slaveFrame bytes) s = .next (State.replied bytes.length (s.answer (.slaveWrite bytes))
      (s.answered (.slaveWrite bytes) a rest)) := by
    rw [← afterCall_answered ha (by simp)]
    exact handFrame_turn (decide_eq_true ⟨hq, hp⟩)
  refine ⟨fun h => ?_, fun h => ?_⟩
  · rw [hexec, State.replied, if_pos (hcount.2 h)]
    rfl
  · rw [hexec, State.replied, if_neg (hcount.not.2 h), finish_failure _ (k := .transportError) nofun]
    rfl

end Sys2Proof.Machine
end

section
/-!
PROOFS. Whole runs of the I2C commands under a scripted Transport (spec/40_ackpoller.md R131 to R137,
spec/41_pagedwriter.md R152 to R156): an attempt of a wait, a wait of any length, a page with its wait, and any number of
pages.
-/

namespace Sys2Proof.Machine

open Sys2Proof

/-! Runs. -/

/-- A run of any machine goes on from where a shorter run arrives. -/
theorem coreRun_add {M : Host.Core} {s t : M.State} {m : Nat} (n : Nat) (h : M.run m s = .next t) :
    M.run (m + n) s = M.run n t := by
  induction m generalizing s with
  | zero =>
    cases h
    rw [Nat.zero_add]
  | succ m ih =>
    rw [Nat.succ_add]
    cases hstep : M.step s with
    | next u =>
      rw [coreRun_succ_of_step hstep] at h ⊢
      exact ih h
    | _ => simp only [Host.Core.run, hstep, reduceCtorEq] at h

theorem runFor_add {s t : State} {m : Nat} (n : Nat) (h : runFor m s = .next t) : runFor (m + n) s = runFor n t :=
  coreRun_add (M := Sys2Proof.core) n h

theorem runFor_one_of_step {s t : State} (h : step s = .next t) : runFor 1 s = .next t := runFor_succ_of_step h

/-! One attempt of a wait (R132). -/

/-- A status confirms readiness exactly when it is classified as acknowledged (R133). -/
theorem confirms_iff (p : Params) (c : Byte) : confirms p c = true ↔ classify p c = .ack := by
  unfold confirms classify
  cases p.isBusy c <;> cases p.isIdle c <;> cases p.isAddrNacked c <;> decide

/-- The wait after the attempts whose probes were counted and whose statuses were `cs`. -/
def State.attempted (s : State) (cs : List Byte) (rest : List Answer) : State :=
  { s with
    att := s.att + cs.length
    seq := .ackStatus
    answers := rest
    hist := s.hist ++ attemptEvents s.latch.peer cs }

/-- An attempt: a probe that is counted, and a status that is classified. -/
theorem attempt_run {s : State} {c : Byte} {rest : List Answer} (hi : s.inputs = []) (hb : s.busy = true)
    (hq : s.seq = .ackProbe) (hp : s.peerWritten = true) (hc : s.cmd ≠ 0x03)
    (ha : s.answers = .count 1 :: .status c :: rest) :
    runFor 2 s = .next (State.ackClassified c (s.attempted [c] rest)) := by
  have hprobe := (step_of_frame (i := .i2cProbe) hi hb (by simp only [State.nextMove, hq])).trans
    (exec_probe_of_wait hq hp ha)
  rw [(probe_counts_iff ha).2 rfl, State.ackProbed, if_pos rfl] at hprobe
  have hstatus := step_ackStatus (s := { s.answered (.write s.latch.peer [0x00]) (.count 1) (.status c :: rest) with
    att := s.att + 1, seq := .ackStatus }) hi hb rfl hp rfl
  rw [answer_getStatus rfl, statusAnswered_status_of_wait (by exact hc)] at hstatus
  refine (runFor_succ_of_step hprobe).trans ((runFor_one_of_step hstatus).trans ?_)
  simp only [State.answered, State.attempted, attemptEvents, probeEvent, List.append_assoc, List.cons_append,
    List.nil_append, List.length_singleton]

/-- What a status read leaves depends on nothing that an earlier status read has left. -/
theorem ackClassified_congr {s t : State} {c : Byte} (h : s.statusRead c = t.statusRead c) :
    State.ackClassified c s = State.ackClassified c t := by
  have hread : ∀ u : State, State.ackClassified c u = State.ackClassified c (u.statusRead c) := fun _ => rfl
  rw [hread s, h, ← hread t]

/-- A wait whose attempts before the last do not confirm readiness, with an attempt left after each of them, comes down to
the classification of the last status (R132, R135). -/
theorem wait_run {cs : List Byte} {s : State} {c : Byte} {rest : List Answer} (hi : s.inputs = []) (hb : s.busy = true)
    (hq : s.seq = .ackProbe) (hp : s.peerWritten = true) (hc : s.cmd ≠ 0x03)
    (hcs : ∀ x ∈ cs, confirms s.params x = false) (hlim : s.att + cs.length < s.latch.retryLimit.toNat)
    (ha : s.answers = attemptScript (cs ++ [c]) ++ rest) :
    runFor (2 * (cs.length + 1)) s = .next (State.ackClassified c (s.attempted (cs ++ [c]) rest)) := by
  induction cs generalizing s with
  | nil => exact attempt_run hi hb hq hp hc ha
  | cons x cs ih =>
    obtain ⟨hx, hcs⟩ := List.forall_mem_cons.1 hcs
    rw [List.length_cons] at hlim
    have hnot : classify s.params x ≠ .ack := by
      rw [Ne, ← confirms_iff, hx]
      decide
    have hfirst := attempt_run hi hb hq hp hc ha
    rw [ackClassified_of_ne_ack (by exact hnot),
      ackRetry_of_lt (show s.att + 1 < s.latch.retryLimit.toNat by omega)] at hfirst
    have hrest := ih (s := { (s.attempted [x] (attemptScript (cs ++ [c]) ++ rest)).statusRead x with seq := .ackProbe })
      hi hb rfl hp hc hcs (show s.att + 1 + cs.length < s.latch.retryLimit.toNat by omega) rfl
    have hlen : 2 * ((x :: cs).length + 1) = 2 + 2 * (cs.length + 1) := by rw [List.length_cons]; omega
    rw [hlen, runFor_add _ hfirst]
    refine hrest.trans (congrArg _ (ackClassified_congr ?_))
    simp only [State.attempted, State.statusRead, attemptEvents, List.append_assoc, List.cons_append,
      List.nil_append, List.length_cons, List.length_append, List.length_nil, Nat.add_assoc, Nat.add_comm 1, Nat.zero_add]

/-! WAITRDY. -/

/-- A legal WAITRDY stands at its first probe (R131). -/
theorem exec_waitrdy_of_limit {s : State} (hb : s.busy = false) (hlim : s.regs.retryLimit ≠ 0)
    (hp : s.peerWritten = true) : exec .waitrdy s = .next { s.start 0x01 with seq := .ackProbe } :=
  (legalCommandsEnterTheirFirstState s hb).1 hlim fun _ => hp

/-- WAITRDY up to the classification of its last status. -/
theorem waitrdy_run {s : State} {cs : List Byte} {c : Byte} {rest : List Answer} (hb : s.busy = false)
    (hi : s.inputs = []) (hp : s.peerWritten = true) (hcs : ∀ x ∈ cs, confirms s.params x = false)
    (hlim : cs.length + 1 ≤ s.regs.retryLimit.toNat) (ha : s.answers = attemptScript (cs ++ [c]) ++ rest) :
    exec .waitrdy s = .next { s.start 0x01 with seq := .ackProbe } ∧
      runFor (2 * (cs.length + 1)) { s.start 0x01 with seq := .ackProbe } =
        .next (State.ackClassified c ((s.start 0x01).attempted (cs ++ [c]) rest)) :=
  ⟨exec_waitrdy_of_limit hb ((toNat_pos_iff _).1 (by omega)) hp,
    wait_run (s := { s.start 0x01 with seq := .ackProbe }) hi (start_busy s 0x01) rfl hp
      (by change (0x01 : Byte) ≠ 0x03; decide) hcs (by change 0 + cs.length < s.regs.retryLimit.toNat; omega) ha⟩

theorem attempted_start_att (s : State) (code : Byte) (cs : List Byte) (c : Byte) (rest : List Answer) :
    ((s.start code).attempted (cs ++ [c]) rest).att = cs.length + 1 := by
  simp [State.attempted]

/-- A wait of WAITRDY that succeeds, in closed form (R131). -/
theorem ackEnd_success_of_waitrdy_eq {s : State} (hc : s.cmd = 0x01) (hv : s.ackValid = true) :
    s.ackEnd .success = { s with
      seq := .idle
      status := 0x02
      lastStatusWritten := true
      res := { s.res with result := 0, attempts := BitVec.ofNat 32 s.att, lastStatus := s.ackStatus, flags := 0x03 } } := by
  obtain ⟨-, -, hres⟩ := ackEnd_success_of_waitrdy hc hv
  rw [← hres, ackEnd_of_not_pgwrite (by rw [hc]; decide)]
  simp only [State.finish, State.ackResults, hv, Bool.or_true]
  rfl

/-- Settles O45: the wait, and a last status that is acknowledged. -/
theorem waitrdySucceedsAtTheConfirmingAttempt : Obligations.WaitrdySucceedsAtTheConfirmingAttempt := by
  intro s cs c rest hb hi hp hcs hc hlim ha
  obtain ⟨hexec, hrun⟩ := waitrdy_run hb hi hp hcs hlim ha
  refine ⟨_, hexec, hrun.trans (congrArg _ ?_)⟩
  rw [ackClassified_of_ack (by exact (confirms_iff _ _).1 hc), ackEnd_success_of_waitrdy_eq rfl rfl]
  simp only [State.statusRead, attempted_start_att]
  simp only [State.attempted, List.length_append, List.length_singleton, start_att, Nat.zero_add]
  rfl

/-- Settles O46: the wait, and a last status that leaves no attempt. -/
theorem waitrdyExhaustsItsLimit : Obligations.WaitrdyExhaustsItsLimit := by
  intro s cs c rest hb hi hp hcs hlim ha
  obtain ⟨hcs, hlast⟩ := List.forall_mem_append.1 hcs
  have hnot : classify s.params c ≠ .ack := by
    rw [Ne, ← confirms_iff, hlast c (List.mem_singleton_self c)]
    decide
  have hall : BitVec.ofNat 32 (cs.length + 1) = s.regs.retryLimit := by rw [hlim, BitVec.ofNat_toNat, BitVec.setWidth_eq]
  obtain ⟨hexec, hrun⟩ := waitrdy_run hb hi hp hcs hlim.le ha
  refine ⟨_, hexec, hrun.trans (congrArg _ ?_)⟩
  rw [ackClassified_of_ne_ack (by exact hnot),
    ackRetry_of_ge (by exact (attempted_start_att s 0x01 cs c rest).ge.trans' hlim.ge),
    ackEnd_of_waitrdy rfl (k := .busyTimeout) nofun]
  simp only [State.statusRead, attempted_start_att, hall]
  simp only [State.attempted, List.length_append, List.length_singleton, start_att, Nat.zero_add, Bool.or_true, if_true]
  rfl

/-! PGWRITE, page by page (R152, R155). -/

/-- Of the data read as a whole, a part reads as its part. -/
theorem dbufRead_part {m : Memory} {n i k : Nat} {data : List Byte} (h : dbufRead m 0 n = some data) (hle : i + k ≤ n) :
    dbufRead m i k = some ((data.drop i).take k) := by
  obtain ⟨hlen, hget⟩ := (dbufRead_eq_some_iff n m 0 data).1 h
  refine (dbufRead_eq_some_iff k m i _).2 ⟨by rw [List.length_take, List.length_drop, hlen]; omega, fun j hj => ?_⟩
  rw [List.getElem?_take_of_lt hj, List.getElem?_drop, ← hget (i + j) (by omega), Nat.zero_add]

/-- The command with a page sent and acknowledged by the first status. -/
def State.pageAcked (s : State) (frame : List Byte) (c : Byte) (rest : List Answer) : State :=
  { s with
    att := 1
    ackStatus := c
    ackValid := true
    seq := .ackStatus
    answers := rest
    hist := s.hist ++ [.call (.write s.latch.peer frame) (.count frame.length), probeEvent s.latch.peer (.count 1),
      .call (.getStatus s.latch.peer) (.status c)] }

/-- A page that is sent in full and acknowledged at once: its frame, a probe, and a status (R152, R155). -/
theorem page_run {s : State} {payload : List Byte} {c : Byte} {rest : List Answer} (hi : s.inputs = [])
    (hb : s.busy = true) (hq : s.seq = .pgSend) (hp : s.peerWritten = true) (hcmd : s.cmd ≠ 0x03)
    (hr : dbufRead s.dbuf (s.idx * s.latch.pageSize.toNat) s.latch.pageSize.toNat = some payload)
    (hlim : s.latch.retryLimit ≠ 0) (hc : confirms s.params c = true)
    (ha : s.answers = .count (payload.length + 1) :: .count 1 :: .status c :: rest) :
    runFor 3 s = .next (State.ackEnd
      (s.pageAcked (BitVec.ofNat 8 (s.idx * s.latch.pageSize.toNat) :: payload) c rest) .success) := by
  have hpage := (step_of_frame hi hb ((nextMove_pgSend hq).trans (pageMove_of_some hr))).trans
    (exec_page_of_turn hq hp ha)
  rw [(page_counts_iff ha).2 rfl, State.pageSent, if_pos rfl, ackBegin_of_limit (by exact hlim)] at hpage
  have hwait := attempt_run (s := { s.answered (.write s.latch.peer
      (BitVec.ofNat 8 (s.idx * s.latch.pageSize.toNat) :: payload)) (.count (payload.length + 1))
      (.count 1 :: .status c :: rest) with att := 0, ackValid := false, seq := .ackProbe }) hi hb rfl hp hcmd rfl
  rw [ackClassified_of_ack (by exact (confirms_iff _ _).1 hc)] at hwait
  refine (runFor_succ_of_step hpage).trans (hwait.trans ?_)
  simp only [State.answered, State.attempted, State.statusRead, State.pageAcked, attemptEvents, List.append_assoc,
    List.cons_append, List.nil_append, List.length_cons, List.length_nil, Nat.zero_add]

/-- PGWRITE issued at `s` stands at page `k`, all pages before it sent and acknowledged. -/
structure State.AtPage (s : State) (k : Nat) (events : List Event) (rest : List Answer) (t : State) : Prop where
  seq         : t.seq = .pgSend
  idx         : t.idx = k
  cmd         : t.cmd = 0x02
  status      : t.status = statusBusy
  latch       : t.latch = s.regs
  regs        : t.regs = s.regs
  params      : t.params = s.params
  inputs      : t.inputs = []
  peerWritten : t.peerWritten = true
  dbuf        : t.dbuf = s.dbuf
  unitstat    : t.unitstat = s.unitstat
  sel         : t.sel = s.sel
  hist        : t.hist = s.hist ++ events
  answers     : t.answers = rest
  cause       : t.res.cause = 0
  unit        : t.res.unit = 0
  failcnt     : t.res.failcnt = 0

/-- BUSY alone in STATUS is BUSY. -/
theorem busy_of_status {s : State} (h : s.status = statusBusy) : s.busy = true := by
  rw [State.busy, h]
  decide

/-- A page of a legal PGWRITE ends within its data (R151, R152). -/
theorem page_le_len {r : ParamRegs} {k : Nat} (hlegal : r.pgwriteLegal = true) (hk : k < r.pageCount) :
    k * r.pageSize.toNat + r.pageSize.toNat ≤ r.len.toNat := by
  rw [← pageCount_mul _ hlegal, ← Nat.succ_mul]
  exact Nat.mul_le_mul_right _ hk

/-- The frame of a page is the start address and a page of data (R95). -/
theorem length_pageBytes {r : ParamRegs} {m : Memory} {data : List Byte} {k : Nat} (hlegal : r.pgwriteLegal = true)
    (hdata : dbufRead m 0 r.len.toNat = some data) (hk : k < r.pageCount) :
    (pageBytes r.pageSize.toNat data k).length = r.pageSize.toNat + 1 := by
  rw [pageBytes, List.length_cons,
    ((dbufRead_eq_some_iff _ _ _ _).1 (dbufRead_part hdata (page_le_len hlegal hk))).1]

/-- The page in hand is sent and acknowledged at once. -/
theorem State.AtPage.acked_run {s t : State} {k : Nat} {events : List Event} {rest : List Answer} {c : Byte}
    {data : List Byte} (hlegal : s.regs.pgwriteLegal = true) (hdata : dbufRead s.dbuf 0 s.regs.len.toNat = some data)
    (hlim : s.regs.retryLimit ≠ 0) (hc : confirms s.params c = true) (hk : k < s.regs.pageCount)
    (h : s.AtPage k events (.count (s.regs.pageSize.toNat + 1) :: .count 1 :: .status c :: rest) t) :
    runFor 3 t = .next (State.ackEnd (t.pageAcked (pageBytes s.regs.pageSize.toNat data k) c rest) .success) := by
  have hread := dbufRead_part hdata (page_le_len hlegal hk)
  have hlen := ((dbufRead_eq_some_iff _ _ _ _).1 hread).1
  have hrun := page_run h.inputs (busy_of_status h.status) h.seq h.peerWritten (by rw [h.cmd]; decide)
    (by rw [h.dbuf, h.idx, h.latch]; exact hread) (by rw [h.latch]; exact hlim) (by rw [h.params]; exact hc)
    (by rw [hlen]; exact h.answers)
  rwa [h.idx, h.latch] at hrun

theorem pageScript_succ (n : Nat) (c : Byte) (k : Nat) :
    pageScript n c (k + 1) = pageScript n c k ++ [.count (n + 1), .count 1, .status c] := by
  induction k with
  | zero => rfl
  | succ k ih => exact congrArg (fun l => Answer.count (n + 1) :: .count 1 :: .status c :: l) ih

/-- A page that is not the last leaves the command at the next one. -/
theorem State.AtPage.next_page {s t : State} {k : Nat} {events : List Event} {rest : List Answer} {c : Byte}
    {data : List Byte} (hlegal : s.regs.pgwriteLegal = true) (hdata : dbufRead s.dbuf 0 s.regs.len.toNat = some data)
    (hlim : s.regs.retryLimit ≠ 0) (hc : confirms s.params c = true) (hk : k + 1 < s.regs.pageCount)
    (h : s.AtPage k events (.count (s.regs.pageSize.toNat + 1) :: .count 1 :: .status c :: rest) t) :
    ∃ u, runFor 3 t = .next u ∧ s.AtPage (k + 1) (events ++
      [.call (.write s.regs.peer (pageBytes s.regs.pageSize.toNat data k)) (.count (s.regs.pageSize.toNat + 1)),
        probeEvent s.regs.peer (.count 1), .call (.getStatus s.regs.peer) (.status c)]) rest u := by
  have hrun := h.acked_run hlegal hdata hlim hc (by omega)
  have hlt : t.idx + 1 < t.latch.pageCount := by rw [h.idx, h.latch]; exact hk
  rw [ackEnd_success_of_next (s := t.pageAcked _ _ _) h.cmd hlt] at hrun
  have hidx : t.idx + 1 = k + 1 := by rw [h.idx]
  refine ⟨_, hrun, rfl, hidx, h.cmd, h.status, h.latch, h.regs, h.params, h.inputs, h.peerWritten, h.dbuf, h.unitstat,
    h.sel, ?_, rfl, h.cause, h.unit, h.failcnt⟩
  change t.hist ++ _ = _
  rw [h.hist, h.latch, length_pageBytes hlegal hdata (by omega), List.append_assoc]

/-- Any number of pages, short of the last, each sent in full and acknowledged at once (R155). -/
theorem pages_run {s : State} {c : Byte} {data : List Byte} (hb : s.busy = false) (hi : s.inputs = [])
    (hp : s.peerWritten = true) (hlegal : s.regs.pgwriteLegal = true)
    (hdata : dbufRead s.dbuf 0 s.regs.len.toNat = some data) (hlim : s.regs.retryLimit ≠ 0)
    (hc : confirms s.params c = true) (k : Nat) (hk : k < s.regs.pageCount) (rest : List Answer)
    (ha : s.answers = pageScript s.regs.pageSize.toNat c k ++ rest) :
    ∃ t u, exec .pgwrite s = .next t ∧ runFor (3 * k) t = .next u ∧
      s.AtPage k (pageEvents s.regs.peer s.regs.pageSize.toNat c data k) rest u := by
  induction k generalizing rest with
  | zero =>
    have hv : ¬ violates s.regs .pgwrite := (checkOf_iff .pgwrite s.regs).1 hlegal
    have hlen : s.regs.len ≠ 0 := (pageCount_eq_zero_iff hlegal).not.1 (by omega)
    have hexec := (legalCommandsEnterTheirFirstState s hb).2.1 hv hlen
      fun _ _ => ⟨hp, by rw [hdata]; rfl⟩
    exact ⟨_, _, hexec, rfl, rfl, rfl, rfl, rfl, rfl, rfl, rfl, hi, hp, rfl, rfl, rfl, (List.append_nil _).symm, ha,
      rfl, rfl, rfl⟩
  | succ k ih =>
    rw [pageScript_succ, List.append_assoc] at ha
    obtain ⟨t, u, hexec, hrun, hu⟩ := ih (by omega) _ ha
    obtain ⟨v, hpage, hv⟩ := hu.next_page hlegal hdata hlim hc hk
    exact ⟨t, v, hexec, (runFor_add 3 hrun).trans hpage, hv⟩

/-- Settles O47: the pages before the last, and the last, whose wait ends the command. -/
theorem pgwriteSendsEveryPageInOrder : Obligations.PgwriteSendsEveryPageInOrder := by
  intro s data c rest hb hi hp hv hlen hlim hc hdata ha
  have hlegal : s.regs.pgwriteLegal = true := (checkOf_iff .pgwrite s.regs).2 hv
  obtain ⟨k, hk⟩ : ∃ k, s.regs.pageCount = k + 1 :=
    Nat.exists_eq_succ_of_ne_zero ((pageCount_eq_zero_iff hlegal).not.2 hlen)
  rw [hk, pageScript_succ, List.append_assoc] at ha
  obtain ⟨t, u, hexec, hrun, hu⟩ := pages_run hb hi hp hlegal hdata hlim hc k (by omega) _ ha
  have hlast := hu.acked_run hlegal hdata hlim hc (by omega)
  have hle : u.latch.pageCount ≤ u.idx + 1 := by rw [hu.latch, hu.idx, hk]
  obtain ⟨hseq, hstatus, hres⟩ := ackEnd_success_of_last_effect
    (s := u.pageAcked (pageBytes s.regs.pageSize.toNat data k) c rest) hu.cmd hle rfl
  have hsame := ackEnd_same (u.pageAcked (pageBytes s.regs.pageSize.toNat data k) c rest) .success
  obtain ⟨-, hdbuf, hregs, -⟩ := ackEnd_keeps (u.pageAcked (pageBytes s.regs.pageSize.toNat data k) c rest) .success
  rw [hk]
  refine ⟨t, _, hexec, (runFor_add 3 hrun).trans hlast, hres.trans ?_, hstatus, hseq, hsame.answers,
    hregs.trans hu.regs, hdbuf.trans hu.dbuf, ?_, hsame.sel.trans hu.sel, hsame.hist.trans ?_⟩
  · simp only [State.pageAcked, hu.cause, hu.unit, hu.failcnt, hu.latch, hk]
    rfl
  · rw [ackEnd_success_of_last (s := u.pageAcked _ _ _) hu.cmd hle]
    exact hu.unitstat
  · change u.hist ++ _ = _
    rw [hu.hist, hu.latch, length_pageBytes hlegal hdata (by omega), List.append_assoc]
    rfl

/-- Settles O48: the pages before, and a page frame that is not counted in full. -/
theorem pgwriteAbortsAtAShortPage : Obligations.PgwriteAbortsAtAShortPage := by
  intro s data c k a rest hb hi hp hv hlim hc hdata hk hshort ha
  have hlegal : s.regs.pgwriteLegal = true := (checkOf_iff .pgwrite s.regs).2 hv
  obtain ⟨t, u, hexec, hrun, hu⟩ := pages_run hb hi hp hlegal hdata hlim hc k hk _ ha
  have hread := dbufRead_part hdata (page_le_len hlegal hk)
  have hlen := ((dbufRead_eq_some_iff _ _ _ _).1 hread).1
  have hpage := (step_of_frame hu.inputs (busy_of_status hu.status) ((nextMove_pgSend hu.seq).trans
    (pageMove_of_some (by rw [hu.dbuf, hu.idx, hu.latch]; exact hread)))).trans
      (exec_page_of_turn hu.seq hu.peerWritten hu.answers)
  rw [State.pageSent, if_neg ((page_counts_iff hu.answers).not.2 (by rw [hlen]; exact hshort)), pageAborted_eq] at hpage
  have hone : ∀ f : Byte, (f &&& 0x02).getLsbD 0 = false := by decide
  have hunit : BitVec.ofNat 16 u.idx = BitVec.ofNat 16 k := by rw [hu.idx]
  refine ⟨t, _, hexec, (runFor_add 1 hrun).trans (runFor_one_of_step hpage), rfl, rfl, rfl, hunit, hunit, hone _, rfl,
    hu.dbuf, ?_⟩
  change u.hist ++ _ = _
  rw [hu.hist, hu.latch, hu.idx]
  rfl

end Sys2Proof.Machine
end

section
/-!
PROOFS. Whole runs of the serial commands of one unit (spec/42_serial_eeprom.md R171 to R181): SEWEN, SREAD, and SWRITE with
its busy-poll of any length.
-/

namespace Sys2Proof.Machine

open Sys2Proof

/-! SEWEN and SREAD. -/

/-- A success that follows a cleared FLAGS sets SUCCEEDED alone (R29). -/
theorem flagsAtEnd_zero_success : flagsAtEnd 0x00 .success = 0x01 := by decide

/-- A write-enable that transferred its two bytes (R171). -/
theorem enable_step {s : State} {r : List Byte} {rest : List Answer} (hi : s.inputs = []) (hb : s.busy = true)
    (hq : s.seq = .enableWrites) (hr : r.length = 2) (ha : s.answers = .reply r 2 :: rest) :
    step s = .next (State.finish (s.transceived [0x02, 0x7F] true (.reply r 2) rest .deasserted) .success) :=
  (step_of_frame (i := .serEwen) hi hb (by simp only [State.nextMove, hq])).trans
    (handFrame_of_reply (p := encode .serEwen) (decide_eq_true hq) ha ⟨r, 2, hr, Nat.le_refl 2, rfl⟩)

/-- Settles O50: the issue and the frame, whose full count ends the command. -/
theorem sewenIsOneTransceive : Obligations.SewenIsOneTransceive := by
  intro s r0 r1 rest hb hi ha
  have hexec := (legalCommandsEnterTheirFirstState s hb).2.2.2.1
  have hstep := enable_step (s := { s.start 0x10 with seq := .enableWrites }) hi (start_busy s 0x10) rfl rfl ha
  refine ⟨_, hexec, (runFor_one_of_step hstep).trans (congrArg _ ?_)⟩
  rw [← flagsAtEnd_zero_success]
  rfl

/-- The address byte of a legal SADDR is SADDR (R99, R173). -/
theorem setWidth_saddr {a : Byte} (h : a.toNat < 128) : (a.setWidth 7).setWidth 8 = a := by
  refine BitVec.eq_of_toNat_eq ?_
  rw [BitVec.toNat_setWidth, BitVec.toNat_setWidth]
  omega

/-- A read outside the sweeps that transferred its four bytes (R181). -/
theorem read_step {s : State} {r0 r1 r2 r3 : Byte} {rest : List Answer} (hi : s.inputs = []) (hb : s.busy = true)
    (hq : s.seq = .rdCmd) (hc : s.cmd = 0x12) (hv : s.latch.saddr.toNat < 128)
    (ha : s.answers = .reply [r0, r1, r2, r3] 4 :: rest) :
    step s = .next (State.readDone
      (s.transceived [0x03, s.latch.saddr, 0x00, 0x00] true (.reply [r0, r1, r2, r3] 4) rest .deasserted)
      (readReplyValue r2 r3)) := by
  have hstep := (step_of_frame hi hb (nextMove_rdCmd hq)).trans (exec_serRead_of_reply hq (Nat.le_refl 4) ha)
  rwa [encode_serRead, readAnswered_of_reply, if_pos rfl, unitAddr_of_saddr _ (by rw [hc]; decide) (by rw [hc]; decide),
    setWidth_saddr hv] at hstep

/-- Settles O53: the issue and the frame, whose reply gives SDATA. -/
theorem sreadReadsOneByte : Obligations.SreadReadsOneByte := by
  intro s r0 r1 r2 r3 rest hb hi hv ha
  have haddr : s.regs.saddr.toNat < 128 := (saddrLegal_iff _).1 ((checkOf_iff .sread s.regs).2 hv)
  have hexec := (legalCommandsEnterTheirFirstState s hb).2.2.2.2.2.1 hv
  have hstep := read_step (s := { s.start 0x12 with seq := .rdCmd }) hi (start_busy s 0x12) rfl rfl haddr ha
  refine ⟨_, hexec, (runFor_one_of_step hstep).trans (congrArg _ ?_)⟩
  rw [readDone_of_single (by exact show (0x12 : Byte) ≠ 0x14 by decide), ← flagsAtEnd_zero_success]
  rfl

/-! SWRITE: the command, the chunks, the cleanup. -/

/-- A write command outside the sweep that transferred its three bytes (R174). -/
theorem write_step {s : State} {w : List Byte} {rest : List Answer} (hi : s.inputs = []) (hb : s.busy = true)
    (hq : s.seq = .wrCmd) (hc : s.cmd = 0x11) (hv : s.latch.saddr.toNat < 128) (hw : w.length = 3)
    (ha : s.answers = .reply w 3 :: rest) :
    step s = .next { s with
      att := 0
      outcome := .busyTimeout
      seq := if s.latch.pollLimit = 0 then .wrCleanup else .wrPoll
      sel := .deasserted
      answers := rest
      hist := s.hist ++ [writeCommandEvent s.latch.saddr s.latch.sdata (.reply w 3)] } := by
  have hstep := (step_of_frame hi hb ((nextMove_wrCmd hq).trans (writeMove_of_single hc))).trans
    (handFrame_of_reply (p := encode (.serWrite (s.latch.saddr.setWidth 7) s.latch.sdata)) (decide_eq_true hq) ha
      ⟨w, 3, hw, Nat.le_refl 3, rfl⟩)
  rw [hstep, writeCommandAnswered_of_full rfl]
  simp only [State.transceived, encode, setWidth_saddr hv]
  rfl

/-- The write command of a legal SWRITE, transferred in full (R174). -/
theorem swrite_command_run {s : State} {w : List Byte} {rest : List Answer} (hb : s.busy = false) (hi : s.inputs = [])
    (hv : ¬ violates s.regs .swrite) (hw : w.length = 3) (ha : s.answers = .reply w 3 :: rest) :
    exec .swrite s = .next { s.start 0x11 with seq := .wrCmd } ∧
      runFor 1 { s.start 0x11 with seq := .wrCmd } = .next { s.start 0x11 with
        outcome := .busyTimeout
        seq := if s.regs.pollLimit = 0 then .wrCleanup else .wrPoll
        sel := .deasserted
        answers := rest
        hist := s.hist ++ [writeCommandEvent s.regs.saddr s.regs.sdata (.reply w 3)] } := by
  have haddr : s.regs.saddr.toNat < 128 := (saddrLegal_iff _).1 ((checkOf_iff .swrite s.regs).2 hv)
  have hstep := write_step (s := { s.start 0x11 with seq := .wrCmd }) hi (start_busy s 0x11) rfl rfl haddr hw ha
  exact ⟨(legalCommandsEnterTheirFirstState s hb).2.2.2.2.1 hv, runFor_one_of_step hstep⟩

/-- A chunk that transferred its ten bytes (R104). -/
theorem chunk_step {s : State} {r : List Byte} {rest : List Answer} (hi : s.inputs = []) (hb : s.busy = true)
    (hq : s.seq = .wrPoll) (hr : r.length = 10) (ha : s.answers = .reply r 10 :: rest) :
    step s = .next (State.pollAnswered (.reply r 10)
      (s.transceived (List.replicate 10 0x00) false (.reply r 10) rest .asserted)) :=
  (step_of_frame (i := .serPoll) hi hb (by simp only [State.nextMove, hq])).trans
    (handFrame_of_reply (p := encode .serPoll) (decide_eq_true hq) ha ⟨r, 10, hr, Nat.le_refl 10, rfl⟩)

/-- A chunk of zeros with a chunk left after it (R176). -/
theorem busy_chunk_step_of_lt {s : State} {rest : List Answer} (hi : s.inputs = []) (hb : s.busy = true)
    (hq : s.seq = .wrPoll) (hlim : s.att + 1 < s.latch.pollLimit.toNat) (ha : s.answers = stillBusy :: rest) :
    step s = .next { s with
      att := s.att + 1, seq := .wrPoll, sel := .asserted, answers := rest, hist := s.hist ++ [chunkEvent stillBusy] } :=
  (chunk_step (r := List.replicate 10 0x00) hi hb hq rfl ha).trans
    (congrArg _ ((pollAnswered_of_busy _).trans (if_pos hlim)))

/-- A chunk of zeros with none left after it (R176). -/
theorem busy_chunk_step_of_ge {s : State} {rest : List Answer} (hi : s.inputs = []) (hb : s.busy = true)
    (hq : s.seq = .wrPoll) (hlim : s.latch.pollLimit.toNat ≤ s.att + 1) (ha : s.answers = stillBusy :: rest) :
    step s = .next { s with
      att := s.att + 1, seq := .wrCleanup, outcome := .busyTimeout, sel := .asserted, answers := rest
      hist := s.hist ++ [chunkEvent stillBusy] } :=
  (chunk_step (r := List.replicate 10 0x00) hi hb hq rfl ha).trans
    (congrArg _ ((pollAnswered_of_busy _).trans (if_neg (Nat.not_lt.2 hlim))))

/-- Any number of chunks of zeros, with a chunk left after each (R176). -/
theorem busy_chunks_run {k : Nat} {s : State} {rest : List Answer} (hi : s.inputs = []) (hb : s.busy = true)
    (hq : s.seq = .wrPoll) (hlim : s.att + k < s.latch.pollLimit.toNat)
    (ha : s.answers = List.replicate k stillBusy ++ rest) :
    ∃ x : Sel, runFor k s = .next { s with
      att := s.att + k, sel := x, answers := rest, hist := s.hist ++ List.replicate k (chunkEvent stillBusy) } := by
  induction k generalizing s with
  | zero =>
    refine ⟨s.sel, congrArg _ ?_⟩
    rw [List.replicate_zero, List.append_nil]
    rw [List.replicate_zero, List.nil_append] at ha
    rw [← ha]
    rfl
  | succ k ih =>
    have hstep := busy_chunk_step_of_lt hi hb hq (by omega) ha
    obtain ⟨x, hrun⟩ := ih (s := { s with
      att := s.att + 1, seq := .wrPoll, sel := .asserted, answers := List.replicate k stillBusy ++ rest
      hist := s.hist ++ [chunkEvent stillBusy] }) hi hb rfl
      (show s.att + 1 + k < s.latch.pollLimit.toNat by omega) rfl
    refine ⟨x, (runFor_succ_of_step hstep).trans (hrun.trans (congrArg _ ?_))⟩
    rw [List.append_assoc, hq, List.replicate_succ, Nat.add_assoc, Nat.add_comm 1]
    rfl

/-- The cleanup of a SWRITE ends the command, with Success only if the poll and the cleanup both did (R177, R178). -/
theorem cleanup_step {s : State} {a : Answer} {rest : List Answer} (hi : s.inputs = []) (hb : s.busy = true)
    (hq : s.seq = .wrCleanup) (hc : s.cmd ≠ 0x13) (ha : s.answers = a :: rest) :
    step s = .next (State.finish
      { s.afterCall (.transceive [0x00] true) with res.attempts := BitVec.ofNat 32 s.att }
      (if s.outcome = .success ∧ ¬ (∃ b, a = .reply [b] 1) then .transportError else s.outcome)) := by
  rw [step_of_frame (i := .serIdle) hi hb (by simp only [State.nextMove, hq]), exec_serIdle_at_cleanup hq ha,
    writeEnd_of_single (by exact hc)]
  rfl

/-- Settles O51: the command, the chunks of zeros, the chunk that is done, the cleanup. -/
theorem swriteIsDoneAtTheNonzeroChunk : Obligations.SwriteIsDoneAtTheNonzeroChunk := by
  intro s k r w x rest hb hi hv hlim hw hr hne ha
  have hlimit : s.regs.pollLimit ≠ 0 := (toNat_pos_iff _).1 (by omega)
  obtain ⟨hexec, hcmd⟩ := swrite_command_run hb hi hv hw ha
  rw [if_neg hlimit] at hcmd
  obtain ⟨y, hchunks⟩ := busy_chunks_run (k := k) (s := { s.start 0x11 with
    outcome := .busyTimeout, seq := .wrPoll, sel := .deasserted
    answers := List.replicate k stillBusy ++ .reply r 10 :: .reply [x] 1 :: rest
    hist := s.hist ++ [writeCommandEvent s.regs.saddr s.regs.sdata (.reply w 3)] }) hi (start_busy s 0x11) rfl
    (show 0 + k < s.regs.pollLimit.toNat by omega) rfl
  have hdone := chunk_step (s := { s.start 0x11 with
    outcome := .busyTimeout, seq := .wrPoll, sel := y, att := 0 + k, answers := .reply r 10 :: .reply [x] 1 :: rest
    hist := (s.hist ++ [writeCommandEvent s.regs.saddr s.regs.sdata (.reply w 3)]) ++
      List.replicate k (chunkEvent stillBusy) }) hi (start_busy s 0x11) rfl hr rfl
  rw [pollAnswered_of_done hr hne] at hdone
  have hclean := cleanup_step (s := { s.start 0x11 with
    outcome := .success, seq := .wrCleanup, sel := .asserted, att := 0 + k + 1, answers := .reply [x] 1 :: rest
    hist := ((s.hist ++ [writeCommandEvent s.regs.saddr s.regs.sdata (.reply w 3)]) ++
      List.replicate k (chunkEvent stillBusy)) ++ [chunkEvent (.reply r 10)] }) hi (start_busy s 0x11) rfl
    (show (0x11 : Byte) ≠ 0x13 by decide) rfl
  rw [if_neg (by simp), afterCall_of_reply (p := [0x00]) (by rfl) ⟨[x], 1, rfl, Nat.le_refl 1, rfl⟩] at hclean
  have hsteps : k + 3 = 1 + (k + (1 + 1)) := by omega
  refine ⟨_, hexec, ?_⟩
  rw [hsteps, runFor_add _ hcmd, runFor_add _ hchunks]
  refine (runFor_succ_of_step hdone).trans ((runFor_one_of_step hclean).trans (congrArg _ ?_))
  rw [← flagsAtEnd_zero_success, Nat.zero_add]
  simp only [List.append_assoc, List.cons_append, List.nil_append]
  rfl

/-- Up to the cleanup of a SWRITE that is still busy after its last chunk (R176, R180). -/
theorem swrite_timeout_run {s : State} {w : List Byte} {rest : List Answer} (hb : s.busy = false) (hi : s.inputs = [])
    (hv : ¬ violates s.regs .swrite) (hw : w.length = 3)
    (ha : s.answers = .reply w 3 :: (List.replicate s.regs.pollLimit.toNat stillBusy ++ rest)) :
    ∃ x : Sel, exec .swrite s = .next { s.start 0x11 with seq := .wrCmd } ∧
      runFor (s.regs.pollLimit.toNat + 1) { s.start 0x11 with seq := .wrCmd } = .next { s.start 0x11 with
        outcome := .busyTimeout
        seq := .wrCleanup
        att := s.regs.pollLimit.toNat
        sel := x
        answers := rest
        hist := s.hist ++ writeCommandEvent s.regs.saddr s.regs.sdata (.reply w 3) ::
          List.replicate s.regs.pollLimit.toNat (chunkEvent stillBusy) } := by
  obtain ⟨hexec, hcmd⟩ := swrite_command_run hb hi hv hw ha
  by_cases hlimit : s.regs.pollLimit = 0
  · rw [if_pos hlimit] at hcmd
    have hz : s.regs.pollLimit.toNat = 0 := by rw [hlimit]; rfl
    rw [hz] at hcmd ⊢
    exact ⟨.deasserted, hexec, hcmd⟩
  · rw [if_neg hlimit] at hcmd
    obtain ⟨k, hk⟩ := Nat.exists_eq_succ_of_ne_zero (Nat.pos_iff_ne_zero.1 ((toNat_pos_iff _).2 hlimit))
    obtain ⟨y, hchunks⟩ := busy_chunks_run (k := k) (s := { s.start 0x11 with
      outcome := .busyTimeout, seq := .wrPoll, sel := .deasserted
      answers := List.replicate k stillBusy ++ stillBusy :: rest
      hist := s.hist ++ [writeCommandEvent s.regs.saddr s.regs.sdata (.reply w 3)] }) hi (start_busy s 0x11) rfl
      (show 0 + k < s.regs.pollLimit.toNat by omega) rfl
    have hlast := busy_chunk_step_of_ge (s := { s.start 0x11 with
      outcome := .busyTimeout, seq := .wrPoll, sel := y, att := 0 + k, answers := stillBusy :: rest
      hist := (s.hist ++ [writeCommandEvent s.regs.saddr s.regs.sdata (.reply w 3)]) ++
        List.replicate k (chunkEvent stillBusy) }) hi (start_busy s 0x11) rfl
      (show s.regs.pollLimit.toNat ≤ 0 + k + 1 by omega) rfl
    have hscript : List.replicate s.regs.pollLimit.toNat stillBusy ++ rest =
        List.replicate k stillBusy ++ stillBusy :: rest := by
      rw [hk, List.replicate_succ', List.append_assoc]
      rfl
    have hsteps : s.regs.pollLimit.toNat + 1 = 1 + (k + 1) := by omega
    rw [hscript] at hcmd
    refine ⟨.asserted, hexec, ?_⟩
    rw [hsteps, runFor_add _ hcmd, runFor_add _ hchunks]
    refine (runFor_one_of_step hlast).trans (congrArg _ ?_)
    rw [hk, List.replicate_succ', Nat.zero_add]
    simp only [List.append_assoc, List.cons_append, List.nil_append]

/-- Settles O52: the command and all the chunks, then the cleanup, whose answer does not count. -/
theorem swriteExhaustsItsLimit : Obligations.SwriteExhaustsItsLimit := by
  intro s w a rest hb hi hv hw ha
  obtain ⟨x, hexec, hrun⟩ := swrite_timeout_run hb hi hv hw ha
  have hclean := cleanup_step (s := { s.start 0x11 with
    outcome := .busyTimeout, seq := .wrCleanup, att := s.regs.pollLimit.toNat, sel := x, answers := a :: rest
    hist := s.hist ++ writeCommandEvent s.regs.saddr s.regs.sdata (.reply w 3) ::
      List.replicate s.regs.pollLimit.toNat (chunkEvent stillBusy) }) hi (start_busy s 0x11) rfl
    (show (0x11 : Byte) ≠ 0x13 by decide) rfl
  rw [if_neg (fun h => Kind.noConfusion h.1), afterCall_cons (by rfl)] at hclean
  have hflags : flagsAtEnd 0x00 .busyTimeout = 0x00 := by decide
  refine ⟨_, _, hexec, (runFor_add 1 hrun).trans (runFor_one_of_step hclean), rfl, rfl, rfl, rfl, rfl, ?_, ?_⟩
  · rw [← hflags, BitVec.ofNat_toNat, BitVec.setWidth_eq]
    rfl
  · simp only [finish_hist, List.append_assoc, List.cons_append]
    rfl

end Sys2Proof.Machine
end

section
/-!
PROOFS. Whole runs of RXFRAME (spec/43_slave_frame.md R211 to R222): polls that report nothing up to the limit, bursts of any
sizes up to the target, and the transform, the two delays and the reply that follow a complete frame.
-/

namespace Sys2Proof.Machine

open Sys2Proof

/-- A legal RXFRAME begins with the test for a first poll (R212, R213). -/
theorem exec_rxframe_of_legal {s : State} (hb : s.busy = false) (hv : ¬ violates s.regs .rxframe) :
    exec .rxframe s = .next (s.start 0x20).rxPollAgain := by
  have hexec := exec_command_of_launchable (i := .rxframe) (by decide) hb trivial
  rwa [if_pos ((checkOf_iff .rxframe s.regs).2 hv)] at hexec

/-! Polls that report nothing. -/

/-- With a poll left the block polls again; with none left the command ends (R213, R217). -/
theorem rxPollAgain_of_lt {s : State} (h : s.att < s.latch.rxPollLimit.toNat) :
    s.rxPollAgain = { s with want := 0, seq := .receiving } := if_pos h

theorem rxPollAgain_of_ge {s : State} (h : s.latch.rxPollLimit.toNat ≤ s.att) :
    s.rxPollAgain = s.rxResults.finish .busyTimeout := if_neg (Nat.not_lt.2 h)

/-- A poll that reports nothing is counted, and the test for the next one follows (R213). -/
theorem empty_poll_step {s : State} {rest : List Answer} (hi : s.inputs = []) (hb : s.busy = true)
    (hq : s.seq = .receiving) (hw : s.want = 0) (ha : s.answers = .count 0 :: rest) :
    step s = .next (State.rxPollAgain { s with
      att := s.att + 1, answers := rest, hist := s.hist ++ [.call .bytesAvailable (.count 0)] }) := by
  rw [step_receiving_poll hi hb hq hw ha, answer_cons ha (shapeOk_bytesAvailable_iff.2 ⟨0, rfl⟩)]
  rfl

/-- All the polls that are left, each of them empty, end the command with BusyTimeout (R213, R217). -/
theorem empty_polls_run {n : Nat} {s : State} {rest : List Answer} (hi : s.inputs = []) (hb : s.busy = true)
    (hw : s.want = 0) (hlim : s.att + n = s.latch.rxPollLimit.toNat)
    (ha : s.answers = List.replicate n (.count 0) ++ rest) :
    runFor n s.rxPollAgain = .next (State.finish (State.rxResults { s with
      att := s.att + n
      answers := rest
      hist := s.hist ++ List.replicate n (.call .bytesAvailable (.count 0)) }) .busyTimeout) := by
  induction n generalizing s with
  | zero =>
    rw [List.replicate_zero, List.nil_append] at ha
    rw [rxPollAgain_of_ge (by omega), List.replicate_zero, List.append_nil, ← ha]
    rfl
  | succ n ih =>
    have hpoll := empty_poll_step (s := { s with want := 0, seq := .receiving }) hi hb rfl rfl ha
    have hrest := ih (s := { s with
      want := 0, seq := .receiving, att := s.att + 1, answers := List.replicate n (.count 0) ++ rest
      hist := s.hist ++ [.call .bytesAvailable (.count 0)] }) hi hb rfl
      (show s.att + 1 + n = s.latch.rxPollLimit.toNat by omega) rfl
    rw [rxPollAgain_of_lt (by omega)]
    refine (runFor_succ_of_step hpoll).trans (hrest.trans (congrArg _ ?_))
    rw [List.append_assoc, List.replicate_succ, Nat.add_assoc, Nat.add_comm 1, ← hw]
    rfl

/-- Settles O57: from the issue on, all the polls are empty. -/
theorem rxframeTimesOut : Obligations.RxframeTimesOut := by
  intro s rest hb hi hv ha
  have hrun := empty_polls_run (s := s.start 0x20) (n := s.regs.rxPollLimit.toNat) hi (start_busy s 0x20) rfl
    (Nat.zero_add _) ha
  have hflags : flagsAtEnd 0x00 .busyTimeout = 0x00 := by decide
  refine ⟨_, _, exec_rxframe_of_legal hb hv, hrun, rfl, rfl, rfl, rfl, rfl, ?_, rfl⟩
  have hatt : BitVec.ofNat 32 s.regs.rxPollLimit.toNat = s.regs.rxPollLimit := by
    rw [BitVec.ofNat_toNat, BitVec.setWidth_eq]
  simp only [start_att, Nat.zero_add, finish_res, State.rxResults, hatt]
  rw [← hflags]
  rfl

/-! Bursts up to the target. -/

/-- Bytes written one after the other are written as a whole. -/
theorem dbufWrite_append (b c : List Byte) (m : Memory) (i : Nat) :
    dbufWrite m i (b ++ c) = dbufWrite (dbufWrite m i b) (i + b.length) c := by
  induction b generalizing m i with
  | nil => rfl
  | cons x b ih =>
    rw [List.cons_append, dbufWrite, ih, dbufWrite, List.length_cons, Nat.add_assoc, Nat.add_comm 1]

/-- The reception with a complete frame, received in the given bursts: their bytes in the tail of the frame, one poll
counted for each, the results written (R214, R215). -/
def State.received (s : State) (bursts : List (List Byte)) (rest : List Answer) : State :=
  State.rxResults { s with
    seq := .complete
    att := s.att + bursts.length
    filled := s.filled + bursts.flatten.length
    dbuf := dbufWrite s.dbuf s.filled bursts.flatten
    want := 0
    answers := rest
    hist := s.hist ++ burstEvents bursts }

/-- Bursts that add up to what the frame lacks, within the polls that are left, complete it (R214, R215). -/
theorem bursts_run {b : List Byte} {bs : List (List Byte)} {s : State} {rest : List Answer} (hi : s.inputs = [])
    (hb : s.busy = true) (hq : s.seq = .receiving) (hw : s.want = 0) (hne : ∀ x ∈ b :: bs, x ≠ [])
    (hfull : s.filled + (b :: bs).flatten.length = s.latch.rxTarget.toNat)
    (hlim : s.att + (b :: bs).length ≤ s.latch.rxPollLimit.toNat)
    (ha : s.answers = burstScript (b :: bs) ++ rest) :
    runFor (2 * (b :: bs).length) s = .next (s.received (b :: bs) rest) := by
  induction bs generalizing s b with
  | nil =>
    obtain ⟨hb0, -⟩ := List.forall_mem_cons.1 hne
    have hpos := List.length_pos_iff.2 hb0
    rw [List.flatten_singleton] at hfull
    have hwant : min b.length (s.latch.rxTarget.toNat - s.filled) = b.length := by omega
    have hrun := burst_run hi hb hq hw hpos (by omega) (by omega) ha
    have hread := rxRead_bytes_of_le (s := s.burstCalled b.length b rest) (b := b)
      (show s.latch.rxTarget.toNat ≤ s.filled + b.length by omega)
    refine hrun.trans (congrArg _ (hread.trans ?_))
    simp only [State.burstStored, State.burstCalled, State.received, State.rxResults, hwant, burstEvents,
      List.flatten_singleton, List.length_singleton]
  | cons c cs ih =>
    obtain ⟨hb0, hne⟩ := List.forall_mem_cons.1 hne
    have hpos := List.length_pos_iff.2 hb0
    have hcpos := List.length_pos_iff.2 (hne c List.mem_cons_self)
    rw [List.flatten_cons, List.length_append] at hfull
    rw [List.length_cons] at hlim
    have hrestlen : c.length ≤ (c :: cs).flatten.length := by
      rw [List.flatten_cons, List.length_append]
      omega
    have hcslen : 1 ≤ (c :: cs).length := Nat.succ_pos _
    have hwant : min b.length (s.latch.rxTarget.toNat - s.filled) = b.length := by omega
    have hrun := burst_run hi hb hq hw hpos (by omega) (by omega) ha
    have hread := rxRead_bytes_of_lt (s := s.burstCalled b.length b (burstScript (c :: cs) ++ rest)) (b := b)
      (show s.filled + b.length < s.latch.rxTarget.toNat by omega)
    have hagain := rxPollAgain_of_lt (s := (s.burstCalled b.length b (burstScript (c :: cs) ++ rest)).burstStored b)
      (show s.att + 1 < s.latch.rxPollLimit.toNat by omega)
    have hrest := ih (b := c) (s := { s with
      seq := .receiving
      att := s.att + 1
      filled := s.filled + b.length
      dbuf := dbufWrite s.dbuf s.filled b
      want := 0
      answers := burstScript (c :: cs) ++ rest
      hist := s.hist ++ burstEvents [b] }) hi hb rfl rfl hne
      (show s.filled + b.length + _ = s.latch.rxTarget.toNat by omega)
      (show s.att + 1 + (c :: cs).length ≤ s.latch.rxPollLimit.toNat by omega) rfl
    have hsteps : 2 * (b :: c :: cs).length = 2 + 2 * (c :: cs).length := by
      rw [List.length_cons]
      omega
    rw [hsteps, runFor_add _ (hrun.trans (congrArg _ (hread.trans hagain)))]
    refine Eq.trans ?_ (hrest.trans (congrArg _ ?_))
    · simp only [State.burstStored, State.burstCalled, hwant]
      rfl
    · simp only [State.received, State.rxResults, List.flatten_cons, dbufWrite_append, List.length_append,
        List.length_cons, burstEvents, List.append_assoc, List.cons_append, List.nil_append, Nat.add_assoc, Nat.add_comm 1]

/-! From the complete frame to the end. -/

/-- The moves of a complete frame that make no call (R218, R221). -/
theorem step_complete {s : State} (hi : s.inputs = []) (hb : s.busy = true) (hq : s.seq = .complete) :
    step s = .next s.transformed := by
  rw [step_busy hi hb]
  simp only [seqStep, State.nextMove, hq]

theorem step_preDelay {s : State} (hi : s.inputs = []) (hb : s.busy = true) (hq : s.seq = .responding)
    (hp : s.phase = .preDelay) : step s = .next s.preDelayed := by
  rw [step_busy hi hb]
  simp only [seqStep, State.nextMove, hq, hp]

theorem step_postDelay {s : State} (hi : s.inputs = []) (hb : s.busy = true) (hq : s.seq = .responding)
    (hp : s.phase = .postDelay) : step s = .next s.postDelayed := by
  rw [step_busy hi hb]
  simp only [seqStep, State.nextMove, hq, hp]

/-- The reply of a written frame, transferred in full (R212, R220). -/
theorem step_reply {s : State} {bytes : List Byte} {rest : List Answer} (hi : s.inputs = []) (hb : s.busy = true)
    (hq : s.seq = .responding) (hp : s.phase = .reply)
    (hr : dbufRead s.dbuf 0 s.latch.rxTarget.toNat = some bytes) (ha : s.answers = .count bytes.length :: rest) :
    step s = .next { s with
      phase := .postDelay, answers := rest
      hist := s.hist ++ [.call (.slaveWrite bytes) (.count bytes.length)] } :=
  (step_of_frame hi hb ((nextMove_reply hq hp).trans (replyMove_of_some hr))).trans
    ((replyFrameIsSentOnce s bytes _ rest hq hp ha).1 rfl)

/-- A complete frame is transformed, and sent as one reply between the two delays (R212, R218, R221). -/
theorem reply_run {s : State} {bytes : List Byte} {rest : List Answer} (hi : s.inputs = []) (hb : s.busy = true)
    (hq : s.seq = .complete)
    (hr : dbufRead (transformFrame s.xlut s.dbuf s.latch.rxTarget.toNat) 0 s.latch.rxTarget.toNat = some bytes)
    (ha : s.answers = .count bytes.length :: rest) :
    runFor 4 s = .next (State.finish { s with
      dbuf := transformFrame s.xlut s.dbuf s.latch.rxTarget.toNat
      phase := .postDelay
      answers := rest
      hist := s.hist ++ [.delay s.latch.settlePre, .call (.slaveWrite bytes) (.count bytes.length),
        .delay s.latch.settlePost] } .success) := by
  have hpre := step_preDelay (s := s.transformed) hi hb rfl rfl
  have hreply := step_reply (s := s.transformed.preDelayed) hi hb rfl rfl hr ha
  have hpost := step_postDelay (s := { s.transformed.preDelayed with
    phase := .postDelay, answers := rest
    hist := s.transformed.preDelayed.hist ++ [.call (.slaveWrite bytes) (.count bytes.length)] }) hi hb rfl rfl
  refine (runFor_succ_of_step (step_complete hi hb hq)).trans ((runFor_succ_of_step hpre).trans
    ((runFor_succ_of_step hreply).trans ((runFor_one_of_step hpost).trans (congrArg _ ?_))))
  simp only [State.postDelayed, State.preDelayed, State.transformed, State.afterDelay, State.finish, List.append_assoc,
    List.cons_append, List.nil_append]

/-- A frame that was stored from index 0 reads as its image after the transform (R218). -/
theorem dbufRead_transformFrame (xlut m : Memory) (b : List Byte) :
    dbufRead (transformFrame xlut (dbufWrite m 0 b) b.length) 0 b.length = some (b.map (xlutAt xlut)) := by
  refine (dbufRead_eq_some_iff _ _ _ _).2 ⟨List.length_map _, fun k hk => ?_⟩
  rw [memLookup_transformFrame, if_pos (by omega), memLookup_dbufWrite, if_pos (by omega), List.getElem?_map,
    Nat.zero_add, Nat.sub_zero]

/-- Bytes beyond the frame keep their values. -/
theorem bufGet_transformFrame_of_le (xlut m : Memory) (b : List Byte) {i : Nat} (h : b.length ≤ i) :
    bufGet .dbuf (transformFrame xlut (dbufWrite m 0 b) b.length) i = bufGet .dbuf m i := by
  rw [bufGet_dbuf, memLookup_transformFrame, if_neg (by omega), ← bufGet_dbuf, bufGet_dbufWrite_outside _ _ _ (by omega)]

/-- Settles O56: the bursts, and what follows the complete frame. -/
theorem rxframeAssemblesTransformsAndReplies : Obligations.RxframeAssemblesTransformsAndReplies := by
  intro s bursts rest hb hi _ hv hne hlen hlim ha
  obtain ⟨htarget, -⟩ := (rxTargetLegal_iff _).1 ((checkOf_iff .rxframe s.regs).2 hv)
  cases bursts with
  | nil => rw [List.flatten_nil, List.length_nil] at hlen; omega
  | cons b bs =>
    have hpolls : 0 < s.regs.rxPollLimit.toNat := by rw [List.length_cons] at hlim; omega
    have hexec : exec .rxframe s = .next { s.start 0x20 with seq := .receiving } :=
      (exec_rxframe_of_legal hb hv).trans (congrArg _ (rxPollAgain_of_lt hpolls))
    have hrecv := bursts_run (s := { s.start 0x20 with seq := .receiving }) hi (start_busy s 0x20) rfl rfl hne
      ((Nat.zero_add _).trans hlen) ((Nat.zero_add _).le.trans hlim) ha
    have hread := dbufRead_transformFrame s.xlut s.dbuf (b :: bs).flatten
    have hkept := fun i => bufGet_transformFrame_of_le s.xlut s.dbuf (b :: bs).flatten (i := i)
    rw [hlen] at hread hkept
    have hreply := reply_run (s := State.received { s.start 0x20 with seq := .receiving } (b :: bs)
      (.count s.regs.rxTarget.toNat :: rest)) (rest := rest) hi (start_busy s 0x20) rfl hread
      (by rw [List.length_map, hlen]; rfl)
    refine ⟨_, _, hexec, (runFor_add 4 hrecv).trans hreply, rfl, rfl, rfl, rfl, rfl, rfl, ?_, hread, hkept, ?_⟩
    · have hx : BitVec.ofNat 16 (0 + (b :: bs).flatten.length) = s.regs.rxTarget := by
        rw [Nat.zero_add, hlen, BitVec.ofNat_toNat, BitVec.setWidth_eq]
      rw [← flagsAtEnd_zero_success, ← hx, ← Nat.zero_add (b :: bs).length]
      rfl
    · rw [finish_hist, List.length_map, hlen]
      rfl

end Sys2Proof.Machine
end

section
/-!
PROOFS. Every command ends within its bound of Transport calls (spec/70_reset_and_hazards.md R290): the number of calls that
a running command can still make, which every call lowers and every other move keeps, and the run to the end that it gives.
-/

namespace Sys2Proof.Machine

open Sys2Proof

/-! The calls that are left. -/

/-- How many units the running command works through: the pages of PGWRITE, the addresses of a sweep. -/
def State.unitCount (s : State) : Nat :=
  if s.cmd = 0x02 then s.latch.pageCount else if s.cmd = 0x13 ∨ s.cmd = 0x14 then s.latch.devSize.toNat else 0

/-- How many calls one unit can make. -/
def State.unitCalls (s : State) : Nat :=
  if s.cmd = 0x02 then 1 + 2 * s.latch.retryLimit.toNat
  else if s.cmd = 0x13 then 2 + s.latch.pollLimit.toNat
  else 1

/-- How many calls the units after the current one can make. -/
def State.callsAfter (s : State) : Nat := (s.unitCount - (s.idx + 1)) * s.unitCalls

/-- How many calls the running command can still make (R290). -/
def State.callsLeft (s : State) : Nat :=
  match s.seq with
  | .idle => 0
  | .ackProbe => 2 * (s.latch.retryLimit.toNat - s.att) + s.callsAfter
  | .ackStatus => if s.cmd = 0x03 then 2 else 1 + 2 * (s.latch.retryLimit.toNat - s.att) + s.callsAfter
  | .pgSend => s.unitCalls + s.callsAfter
  | .rdProbe => if s.params.pgreadProbeReadsStatus then 3 else 2
  | .rdBulk => 1
  | .enableWrites => 1
  | .wrCmd => 2 + s.latch.pollLimit.toNat + s.callsAfter
  | .wrPoll => 1 + (s.latch.pollLimit.toNat - s.att) + s.callsAfter
  | .wrCleanup => 1 + s.callsAfter
  | .rdCmd => 1 + s.callsAfter
  | .sweepNext => s.unitCalls + s.callsAfter
  | .receiving => 2 * (s.latch.rxPollLimit.toNat - s.att) + (if s.want = 0 then 1 else 2)
  | .complete => 1
  | .responding => if s.phase = .postDelay then 0 else 1

/-- How many moves without a call can follow one another from here. -/
def State.quietMoves (s : State) : Nat :=
  match s.seq with
  | .sweepNext => 1
  | .complete => 2
  | .responding => if s.phase = .reply then 0 else 1
  | _ => 0

/-- A state with at most `c` calls left; if the command has ended, it shows DONE. -/
structure State.Within (t : State) (c : Nat) : Prop where
  calls : t.callsLeft ≤ c
  quiet : t.quietMoves ≤ 2
  ended : t.seq = .idle → t.status = statusDone

theorem quietMoves_le_two (s : State) : s.quietMoves ≤ 2 := by
  unfold State.quietMoves
  split
  · decide
  · decide
  · split_ifs <;> decide
  · decide

/-- A command that ends has no call left. -/
theorem finish_within (s : State) (k : Kind) (c : Nat) : (s.finish k).Within c :=
  ⟨Nat.zero_le _, Nat.zero_le _, fun _ => rfl⟩

theorem State.Within.of_le {t : State} {c d : Nat} (h : t.Within c) (hle : c ≤ d) : t.Within d :=
  ⟨h.calls.trans hle, h.quiet, h.ended⟩

/-- A running command with its calls counted. -/
theorem within_of_seq {t : State} {c : Nat} (hq : t.seq ≠ .idle) (hc : t.callsLeft ≤ c) : t.Within c :=
  ⟨hc, quietMoves_le_two t, fun h => absurd h hq⟩

theorem unitCalls_of_sweepWrite {s : State} (hc : s.cmd = 0x13) : s.unitCalls = 2 + s.latch.pollLimit.toNat := by
  rw [State.unitCalls, if_neg (by rw [hc]; decide), if_pos hc]

theorem unitCalls_of_sweepRead {s : State} (hc : s.cmd = 0x14) : s.unitCalls = 1 := by
  rw [State.unitCalls, if_neg (by rw [hc]; decide), if_neg (by rw [hc]; decide)]

/-- The next unit's calls are counted among those of the units after the current one. -/
theorem unitCalls_add_callsAfter {s t : State} (hcmd : t.cmd = s.cmd) (hlatch : t.latch = s.latch)
    (hidx : t.idx = s.idx + 1) (hlt : s.idx + 1 < s.unitCount) : t.unitCalls + t.callsAfter = s.callsAfter := by
  have hcalls : t.unitCalls = s.unitCalls := by rw [State.unitCalls, hcmd, hlatch, State.unitCalls]
  have hcount : t.unitCount = s.unitCount := by rw [State.unitCount, hcmd, hlatch, State.unitCount]
  have hafter : s.unitCount - (s.idx + 1) = s.unitCount - (s.idx + 1 + 1) + 1 := by omega
  rw [State.callsAfter, State.callsAfter, hcalls, hcount, hidx, hafter, Nat.succ_mul, Nat.add_comm]

/-- A command of a single unit has no calls after it. -/
theorem callsAfter_of_single {s : State} {c : Byte} (hc : s.cmd = c) (hs : c ≠ 0x02 ∧ c ≠ 0x13 ∧ c ≠ 0x14) :
    s.callsAfter = 0 := by
  obtain ⟨h2, h13, h14⟩ := hs
  have hcount : s.unitCount = 0 := by rw [State.unitCount, hc, if_neg h2, if_neg (not_or.2 ⟨h13, h14⟩)]
  rw [State.callsAfter, hcount, Nat.zero_sub, Nat.zero_mul]

/-! The continuations of the wait and the pages. -/

theorem pageDone_within {s : State} (hc : s.cmd = 0x02) : s.pageDone.Within s.callsAfter := by
  unfold State.pageDone
  split_ifs with hlt
  · refine within_of_seq nofun (Nat.le_of_eq (unitCalls_add_callsAfter rfl rfl rfl ?_))
    rwa [State.unitCount, if_pos hc]
  · exact finish_within _ _ _

theorem ackEnd_within (s : State) (k : Kind) : (s.ackEnd k).Within s.callsAfter := by
  unfold State.ackEnd
  split_ifs with hc
  · exact pageDone_within ((inPgwrite_iff s.ackResults).1 hc)
  · exact finish_within _ _ _
  · exact finish_within _ _ _

theorem ackBegin_within (s : State) : s.ackBegin.Within (2 * s.latch.retryLimit.toNat + s.callsAfter) := by
  unfold State.ackBegin
  dsimp only
  split_ifs
  · exact within_of_seq nofun (Nat.le_refl _)
  · exact (ackEnd_within { s with att := 0, ackValid := false } _).of_le (Nat.le_add_left _ _)

theorem ackRetry_within (s : State) :
    s.ackRetry.Within (2 * (s.latch.retryLimit.toNat - s.att) + s.callsAfter) := by
  unfold State.ackRetry
  split_ifs
  · exact within_of_seq nofun (Nat.le_refl _)
  · exact (ackEnd_within s _).of_le (Nat.le_add_left _ _)

theorem ackProbed_within (a : Answer) {s : State} (hc : s.cmd ≠ 0x03) :
    (State.ackProbed a s).Within (1 + 2 * (s.latch.retryLimit.toNat - (s.att + 1)) + s.callsAfter) := by
  unfold State.ackProbed
  dsimp only
  split_ifs
  · exact within_of_seq nofun (Nat.le_of_eq (if_neg hc))
  · exact (ackEnd_within { s with att := s.att + 1 } _).of_le (Nat.le_add_left _ _)

theorem ackClassified_within (c : Byte) (s : State) :
    (State.ackClassified c s).Within (2 * (s.latch.retryLimit.toNat - s.att) + s.callsAfter) := by
  by_cases h : classify s.params c = .ack
  · rw [ackClassified_of_ack h]
    exact (ackEnd_within (s.statusRead c) _).of_le (Nat.le_add_left _ _)
  · rw [ackClassified_of_ne_ack h]
    exact ackRetry_within (s.statusRead c)

theorem statusAnswered_within_of_wait (a : Answer) {s : State} (hc : s.cmd ≠ 0x03) :
    (State.statusAnswered a s).Within (2 * (s.latch.retryLimit.toNat - s.att) + s.callsAfter) := by
  have hin : ¬ s.inPgread = true := (inPgread_iff s).not.2 hc
  unfold State.statusAnswered
  simp only [if_neg hin]
  split
  · exact ackClassified_within _ s
  · exact (ackEnd_within s _).of_le (Nat.le_add_left _ _)

theorem statusAnswered_within_of_pgread (a : Answer) {s : State} (hc : s.cmd = 0x03) :
    (State.statusAnswered a s).Within 1 := by
  have hin : s.inPgread = true := (inPgread_iff s).2 hc
  unfold State.statusAnswered
  simp only [if_pos hin]
  split
  · exact within_of_seq nofun (Nat.le_refl _)
  · exact finish_within _ _ _

theorem pageSent_within (n : Nat) (a : Answer) (s : State) :
    (State.pageSent n a s).Within (2 * s.latch.retryLimit.toNat + s.callsAfter) := by
  unfold State.pageSent
  split_ifs
  · exact ackBegin_within s
  · exact finish_within _ _ _

theorem rdProbed_within (a : Answer) {s : State} (hc : s.cmd = 0x03) :
    (State.rdProbed a s).Within (if s.params.pgreadProbeReadsStatus then 2 else 1) := by
  unfold State.rdProbed
  split_ifs
  · exact within_of_seq nofun (Nat.le_of_eq (if_pos hc))
  · exact within_of_seq nofun (Nat.le_refl _)
  · exact finish_within _ _ _
  · exact finish_within _ _ _

theorem bulkAnswered_within (a : Answer) (s : State) : (State.bulkAnswered a s).Within 0 := by
  unfold State.bulkAnswered
  split <;> exact finish_within _ _ _

/-! The continuations of the serial driver. -/

theorem sweepEnd_within (s : State) (c : Nat) : s.sweepEnd.Within c := by
  unfold State.sweepEnd
  dsimp only
  split
  · exact finish_within _ _ _
  · exact finish_within _ _ _

theorem unitEnd_within {s : State} (hc : s.cmd = 0x13 ∨ s.cmd = 0x14) (k : Kind) : (s.unitEnd k).Within s.callsAfter := by
  have hne : s.cmd ≠ 0x02 := by rcases hc with h | h <;> (rw [h]; decide)
  unfold State.unitEnd
  dsimp only
  split_ifs with hlt
  · refine within_of_seq nofun (Nat.le_of_eq (unitCalls_add_callsAfter rfl rfl rfl ?_))
    rwa [State.unitCount, if_neg hne, if_pos hc]
  · exact sweepEnd_within _ _

theorem writeEnd_within (s : State) (k : Kind) : (s.writeEnd k).Within s.callsAfter := by
  by_cases hc : s.cmd = 0x13
  · rw [writeEnd_of_sweep hc]
    exact unitEnd_within (s := { s with res.attempts := BitVec.ofNat 32 s.att }) (.inl hc) k
  · rw [writeEnd_of_single hc]
    exact finish_within _ _ _

theorem writeCommandAnswered_within (a : Answer) (s : State) :
    (State.writeCommandAnswered a s).Within (1 + s.latch.pollLimit.toNat + s.callsAfter) := by
  have hle : 1 + s.callsAfter ≤ 1 + s.latch.pollLimit.toNat + s.callsAfter := by omega
  unfold State.writeCommandAnswered
  dsimp only
  split_ifs
  · exact within_of_seq nofun (Nat.le_refl _)
  · exact within_of_seq nofun hle
  · exact within_of_seq nofun hle
  · exact (writeEnd_within { s with att := 0 } _).of_le (Nat.le_add_left _ _)

theorem pollAnswered_within (a : Answer) (s : State) :
    (State.pollAnswered a s).Within (1 + (s.latch.pollLimit.toNat - (s.att + 1)) + s.callsAfter) := by
  have hle : 1 + s.callsAfter ≤ 1 + (s.latch.pollLimit.toNat - (s.att + 1)) + s.callsAfter := by omega
  unfold State.pollAnswered
  dsimp only
  split
  · exact within_of_seq nofun hle
  · split_ifs
    · exact within_of_seq nofun hle
    · exact within_of_seq nofun (Nat.le_refl _)
    · exact within_of_seq nofun hle

theorem readAnswered_within (a : Answer) (s : State) : (State.readAnswered a s).Within s.callsAfter := by
  unfold State.readAnswered
  by_cases hc : s.cmd = 0x14
  · split
    · rw [readDone_of_sweep hc]
      exact unitEnd_within (s := { s with dbuf := bufPut .dbuf s.dbuf s.idx _ }) (.inr hc) _
    · rw [readFailed_of_sweep hc]
      exact unitEnd_within (.inr hc) _
  · split
    · rw [readDone_of_single hc]
      exact finish_within _ _ _
    · rw [readFailed_of_single hc]
      exact finish_within _ _ _

/-! The continuations of the reception. -/

theorem rxPollAgain_within (s : State) : s.rxPollAgain.Within (2 * (s.latch.rxPollLimit.toNat - s.att) + 1) := by
  unfold State.rxPollAgain
  split_ifs
  · exact within_of_seq nofun (Nat.le_refl _)
  · exact finish_within _ _ _

theorem rxPolled_within (a : Answer) {s : State} (hq : s.seq = .receiving) :
    (State.rxPolled a s).Within (2 * (s.latch.rxPollLimit.toNat - (s.att + 1)) + 2) := by
  unfold State.rxPolled
  dsimp only
  split
  · split_ifs
    · exact (rxPollAgain_within { s with att := s.att + 1 }).of_le (Nat.le_succ _)
    · refine within_of_seq (by simp [hq]) ?_
      simp only [State.callsLeft, hq]
      split_ifs <;> omega
  · exact finish_within _ _ _

theorem rxRead_within (a : Answer) (s : State) :
    (State.rxRead a s).Within (2 * (s.latch.rxPollLimit.toNat - s.att) + 1) := by
  unfold State.rxRead
  dsimp only
  split
  · split_ifs
    · exact rxPollAgain_within { s with filled := _, dbuf := _, want := 0 }
    · exact within_of_seq nofun (Nat.le_add_left _ _)
  · exact finish_within _ _ _

theorem replied_within (n : Nat) (a : Answer) {s : State} (hq : s.seq = .responding) :
    (State.replied n a s).Within 0 := by
  unfold State.replied
  split_ifs
  · refine within_of_seq (by simp [hq]) ?_
    simp [State.callsLeft, hq]
  · exact finish_within _ _ _

/-! One move. -/

theorem callCount_append (es fs : List Event) : callCount (es ++ fs) = callCount es + callCount fs := by
  induction es with
  | nil => rw [List.nil_append, callCount, Nat.zero_add]
  | cons e es ih =>
    cases e with
    | call c a => rw [List.cons_append, callCount, callCount, ih]; omega
    | delay d => rw [List.cons_append, callCount, callCount, ih]

/-- A move pays for its call out of the calls left, and a move without a call uses up a quiet move. -/
structure Paid (s t : State) : Prop where
  ended   : t.seq = .idle → t.status = statusDone
  history : ∃ events, t.hist = s.hist ++ events ∧ callCount events + t.callsLeft ≤ s.callsLeft
  lower   : 3 * t.callsLeft + t.quietMoves < 3 * s.callsLeft + s.quietMoves

/-- A call with its continuation, one call fewer left. -/
theorem paid_of_call {s t : State} {c : Call} {n : Nat} (hsame : SameContext (s.afterCall c) t) (h : t.Within n)
    (hlt : n + 1 ≤ s.callsLeft) : Paid s t := by
  have hcalls := h.calls
  have hquiet := h.quiet
  have hone : callCount [.call c s.rawAnswer] = 1 := rfl
  exact ⟨h.ended, ⟨_, hsame.hist, by rw [hone]; omega⟩, by omega⟩

/-- A move without a call. -/
theorem paid_of_quiet {s t : State} {events : List Event} (hh : t.hist = s.hist ++ events) (hz : callCount events = 0)
    (hended : t.seq = .idle → t.status = statusDone) (hcalls : t.callsLeft ≤ s.callsLeft)
    (hquiet : t.quietMoves < s.quietMoves) : Paid s t :=
  ⟨hended, ⟨events, hh, by omega⟩, by omega⟩

theorem cmd_ne_pgread_of_onWait {s : State} (h : s.onWait = true) : s.cmd ≠ 0x03 :=
  (inPgread_iff s).not.1 (Bool.eq_false_iff.1 (not_inPgread_of_onWait h))

/-- Every move of a running command is paid for (R290, R313). -/
theorem seqMove_paid {s t : State} (h : s.inv = true) (hq0 : s.seq ≠ .idle) (hm : SeqMove s t) : Paid s t := by
  have hseq := ((inv_iff s).1 h).2.2.2
  cases hm with
  | rest hq => exact absurd hq hq0
  | probe hq hp =>
    simp only [State.seqOk, hq, Bool.and_eq_true, decide_eq_true_eq] at hseq
    obtain ⟨hw, hatt⟩ := hseq
    refine paid_of_call (ackProbed_same _ _) (ackProbed_within _ (cmd_ne_pgread_of_onWait hw)) ?_
    simp only [State.callsLeft, hq]
    change 1 + 2 * (s.latch.retryLimit.toNat - (s.att + 1)) + s.callsAfter + 1 ≤ _
    omega
  | status hq hp =>
    simp only [State.seqOk, hq, Bool.and_eq_true, Bool.or_eq_true, decide_eq_true_eq] at hseq
    rcases hseq with ⟨hw, -⟩ | ⟨hr, -⟩
    · have hc := cmd_ne_pgread_of_onWait hw
      refine paid_of_call (statusAnswered_same _ _) (statusAnswered_within_of_wait _ (by exact hc)) ?_
      simp only [State.callsLeft, hq, if_neg hc]
      change 2 * (s.latch.retryLimit.toNat - s.att) + s.callsAfter + 1 ≤ _
      omega
    · have hc : s.cmd = 0x03 := ((onPgread_iff s).1 hr).1
      refine paid_of_call (statusAnswered_same _ _) (statusAnswered_within_of_pgread _ (by exact hc)) ?_
      simp only [State.callsLeft, hq, if_pos hc]
      exact Nat.le_refl _
  | page hq hp payload hr =>
    simp only [State.seqOk, hq] at hseq
    have hc : s.cmd = 0x02 := ((onPage_iff s).1 hseq).1
    refine paid_of_call (pageSent_same _ _ _) (pageSent_within _ _ _) ?_
    simp only [State.callsLeft, hq, State.unitCalls, if_pos hc]
    change 2 * s.latch.retryLimit.toNat + s.callsAfter + 1 ≤ _
    omega
  | readProbe hq hp =>
    simp only [State.seqOk, hq] at hseq
    refine paid_of_call (rdProbed_same _ _) (rdProbed_within _ ((onPgread_iff s).1 hseq).1) ?_
    simp only [State.callsLeft, hq]
    change (if s.params.pgreadProbeReadsStatus then 2 else 1) + 1 ≤ if s.params.pgreadProbeReadsStatus then 3 else 2
    split_ifs
    · exact Nat.le_refl 3
    · exact Nat.le_refl 2
  | bulk hq hp =>
    refine paid_of_call (bulkAnswered_same _ _) (bulkAnswered_within _ _) ?_
    simp only [State.callsLeft, hq, Nat.le_refl]
  | enable hq =>
    refine paid_of_call (enableAnswered_same _ _) (finish_within _ _ 0) ?_
    simp only [State.callsLeft, hq, Nat.le_refl]
  | write hq d hd =>
    refine paid_of_call (writeCommandAnswered_same _ _) (writeCommandAnswered_within _ _) ?_
    simp only [State.callsLeft, hq]
    change 1 + s.latch.pollLimit.toNat + s.callsAfter + 1 ≤ _
    omega
  | poll hq =>
    simp only [State.seqOk, hq, Bool.and_eq_true, decide_eq_true_eq] at hseq
    refine paid_of_call (pollAnswered_same _ _) (pollAnswered_within _ _) ?_
    simp only [State.callsLeft, hq]
    change 1 + (s.latch.pollLimit.toNat - (s.att + 1)) + s.callsAfter + 1 ≤ _
    omega
  | cleanup hq =>
    refine paid_of_call (cleanupAnswered_same _ _) (writeEnd_within _ _) ?_
    simp only [State.callsLeft, hq]
    exact Nat.le_of_eq (Nat.add_comm _ _)
  | read hq =>
    refine paid_of_call (readAnswered_same _ _) (readAnswered_within _ _) ?_
    simp only [State.callsLeft, hq]
    exact Nat.le_of_eq (Nat.add_comm _ _)
  | nextUnit hq =>
    simp only [State.seqOk, hq] at hseq
    have hsweep := ((onSweep_iff s).1 hseq).1
    rcases hsweep with ⟨hc, -⟩ | hc
    · have hseq' : s.nextUnit.seq = .wrCmd := if_pos ((inSweepWrite_iff s).2 hc)
      refine paid_of_quiet (List.append_nil _).symm rfl (by simp [hseq']) ?_ ?_
      · simp only [State.callsLeft, hseq', hq]
        exact Nat.le_of_eq (congrArg (· + s.callsAfter) (unitCalls_of_sweepWrite hc).symm)
      · simp [State.quietMoves, hseq', hq]
    · have hseq' : s.nextUnit.seq = .rdCmd := if_neg ((inSweepWrite_iff s).not.2 (by rw [hc]; decide))
      refine paid_of_quiet (List.append_nil _).symm rfl (by simp [hseq']) ?_ ?_
      · simp only [State.callsLeft, hseq', hq]
        exact Nat.le_of_eq (congrArg (· + s.callsAfter) (unitCalls_of_sweepRead hc).symm)
      · simp [State.quietMoves, hseq', hq]
  | backlog hq hw =>
    obtain ⟨-, -, -, hatt⟩ := (seqOk_receiving_iff hq).1 hseq
    refine paid_of_call (rxPolled_same _ _) (rxPolled_within _ hq) ?_
    simp only [State.callsLeft, hq, if_pos hw]
    have := hatt hw
    change 2 * (s.latch.rxPollLimit.toNat - (s.att + 1)) + 2 + 1 ≤ _
    omega
  | burst hq hw =>
    refine paid_of_call (rxRead_same _ _) (rxRead_within _ _) ?_
    simp only [State.callsLeft, hq, if_neg hw]
    exact Nat.le_refl _
  | transform hq =>
    refine paid_of_quiet (List.append_nil _).symm rfl nofun ?_ ?_
    · simp only [State.callsLeft, hq]
      exact Nat.le_refl _
    · simp only [State.quietMoves, hq]
      exact Nat.lt_succ_self 1
  | delayPre hq hp =>
    refine paid_of_quiet rfl rfl ?_ ?_ ?_
    · simp [State.preDelayed, hq]
    · simp [State.callsLeft, State.preDelayed, hq, hp]
    · simp [State.quietMoves, State.preDelayed, hq, hp]
  | reply hq hp bytes hr =>
    refine paid_of_call (replied_same _ _ _) (replied_within _ _ hq) ?_
    simp [State.callsLeft, hq, hp]
  | delayPost hq hp =>
    refine paid_of_quiet rfl rfl (fun _ => rfl) (Nat.zero_le _) ?_
    simp [State.quietMoves, State.postDelayed, hq, hp]

/-! The run to the end. -/

/-- Under the invariant a running command ends, after at most the calls that are left; what its moves keep holds at the end
(R290, R313). -/
theorem run_to_end {P : State → Prop} (keeps : ∀ s t, s.inv = true → s.seq ≠ .idle → P s → SeqMove s t → P t)
    {s : State} (h : s.inv = true) (hq : s.seq ≠ .idle) (hi : s.inputs = []) (hP : P s) :
    ∃ (n : Nat) (u : State) (events : List Event), runFor n s = .next u ∧ u.status = 0x02 ∧ u.seq = .idle ∧
      u.hist = s.hist ++ events ∧ callCount events ≤ s.callsLeft ∧ P u := by
  induction hm : 3 * s.callsLeft + s.quietMoves using Nat.strong_induction_on generalizing s with
  | _ m ih =>
    have hb := (busy_iff_of_inv h).2 hq
    obtain ⟨t, ht⟩ := runningCommandIsNeverRefused.1 s h hb
    have hmove := seqMove_of_next ht
    have hstep := (step_busy hi hb).trans ht
    obtain ⟨hended, ⟨es, hes, hcount⟩, hlower⟩ := seqMove_paid h hq hmove
    have hPt := keeps s t h hq hP hmove
    by_cases hqt : t.seq = .idle
    · exact ⟨1, t, es, runFor_one_of_step hstep, hended hqt, hqt, hes, by omega, hPt⟩
    · obtain ⟨w, hw, hsame⟩ := seqMove_context hmove
      obtain ⟨-, -, -, -, hinputs, -⟩ := hw.kept
      obtain ⟨n, u, fs, hrun, hstatus, hidle, hfs, hcount', hPu⟩ :=
        ih _ (hm ▸ hlower) (seqMove_inv h hmove) hqt (hsame.inputs.trans (hinputs.trans hi)) hPt rfl
      refine ⟨n + 1, u, es ++ fs, (runFor_succ_of_step hstep).trans hrun, hstatus, hidle, ?_, ?_, hPu⟩
      · rw [hfs, hes, List.append_assoc]
      · rw [callCount_append]
        omega

/-- The calls left when a command has entered its first state are at most its bound (R290). -/
theorem callsLeft_entered_le {s : State} {i : Instr} (hi : i ∈ commandList) (hc : checkOf i s.regs = true)
    (hz : zeroLimit s.regs i = none) (hu : s.params.pgreadProbeReadsStatus = false) :
    (s.entered i).callsLeft ≤ callBound s.regs i := by
  cases i with
  | nop => exact Nat.le_refl _
  | waitrdy =>
    have hafter : (s.entered .waitrdy).callsAfter = 0 := callsAfter_of_single (c := 0x01) rfl (by decide)
    change 2 * s.regs.retryLimit.toNat + (s.entered .waitrdy).callsAfter ≤ _
    rw [hafter]
    exact Nat.le_refl _
  | pgwrite =>
    have hlen : s.regs.len ≠ 0 := by simpa [zeroLimit] using hz
    have hpos := Nat.pos_of_ne_zero ((pageCount_eq_zero_iff hc).not.2 hlen)
    change (1 + 2 * s.regs.retryLimit.toNat) + (s.regs.pageCount - (0 + 1)) * (1 + 2 * s.regs.retryLimit.toNat) ≤
      s.regs.pageCount * (1 + 2 * s.regs.retryLimit.toNat)
    rw [Nat.add_comm, ← Nat.succ_mul]
    exact Nat.mul_le_mul_right _ (by omega)
  | pgread =>
    change (if s.params.pgreadProbeReadsStatus then 3 else 2) ≤ 2
    rw [hu]
    exact Nat.le_refl _
  | sewen => exact Nat.le_refl _
  | swrite =>
    have hafter : (s.entered .swrite).callsAfter = 0 := callsAfter_of_single (c := 0x11) rfl (by decide)
    change 2 + s.regs.pollLimit.toNat + (s.entered .swrite).callsAfter ≤ _
    rw [hafter]
    exact Nat.le_refl _
  | sread =>
    have hafter : (s.entered .sread).callsAfter = 0 := callsAfter_of_single (c := 0x12) rfl (by decide)
    change 1 + (s.entered .sread).callsAfter ≤ _
    rw [hafter]
    exact Nat.le_refl _
  | ssweepw =>
    have hpos := ((devSizeLegal_iff _).1 hc).1
    change (2 + s.regs.pollLimit.toNat) + (s.regs.devSize.toNat - (0 + 1)) * (2 + s.regs.pollLimit.toNat) ≤
      s.regs.devSize.toNat * (2 + s.regs.pollLimit.toNat)
    rw [Nat.add_comm, ← Nat.succ_mul]
    exact Nat.mul_le_mul_right _ (by omega)
  | ssweepr =>
    have hpos := ((devSizeLegal_iff _).1 hc).1
    change 1 + (s.regs.devSize.toNat - (0 + 1)) * 1 ≤ s.regs.devSize.toNat
    omega
  | rxframe => exact Nat.le_refl _
  | _ => exact absurd hi (by simp [commandList])

/-- Settles O59: a command has ended at its issue, or runs to its end with the calls that its first state leaves it. -/
theorem everyCommandEndsWithinItsCallBound : Obligations.EveryCommandEndsWithinItsCallBound := by
  intro s i hmem hb hi hinv hl hu _
  obtain ⟨t, ht, hissued⟩ := issued_of_launchable hmem hb hl
  have ht' := issued_inv hinv hmem hissued
  cases hissued with
  | nop => exact ⟨_, _, 0, [], ht, rfl, rfl, rfl, (List.append_nil _).symm, Nat.zero_le _⟩
  | ended => exact ⟨_, _, 0, [], ht, rfl, rfl, rfl, (List.append_nil _).symm, Nat.zero_le _⟩
  | entered hn hc hz _ =>
    obtain ⟨n, u, events, hrun, hstatus, hidle, hhist, hcount, -⟩ := run_to_end (P := fun _ => True)
      (fun _ _ _ _ _ _ => trivial) ht' (firstSeq_ne_idle hmem hn) hi trivial
    exact ⟨_, u, n, events, ht, hrun, hstatus, hidle, hhist, hcount.trans (callsLeft_entered_le hmem hc hz hu)⟩

end Sys2Proof.Machine
end

section
/-!
PROOFS. The sweeps (spec/42_serial_eeprom.md R186 to R189, spec/60_exceptions.md R234): the log and the counts of the
addresses attempted so far, the end of a sweep, SSWEEPR address by address, and SSWEEPW by what each of its moves keeps.
-/

namespace Sys2Proof.Machine

open Sys2Proof

/-! The failed addresses of a log. -/

/-- One more address with its kind: it is a failed one unless the kind is Success (R187). -/
theorem failedUnits_succ {m : Memory} (hwf : Memory.wf .unitstat m = true) (n : Nat) (k : Kind) :
    failedUnits (bufPut .unitstat m n k.code) (n + 1) = failedUnits m n ++ if k = .success then [] else [n] := by
  have hput := fun j => bufGet_bufPut .unitstat m n j k.code hwf
  unfold failedUnits
  rw [List.range_succ, List.filter_append]
  congr 1
  · refine List.filter_congr fun j hj => ?_
    rw [hput, if_neg (Nat.ne_of_lt (List.mem_range.1 hj))]
  · have hnew : (bufGet .unitstat (bufPut .unitstat m n k.code) n != some 0) = !decide (k = .success) := by
      rw [hput, if_pos rfl]
      cases k <;> rfl
    rw [List.filter_singleton, hnew]
    cases k <;> rfl

theorem mem_failedUnits_lt {m : Memory} {n a : Nat} (h : a ∈ failedUnits m n) : a < n :=
  List.mem_range.1 (List.mem_filter.1 h).1

/-- The counts of a sweep say of the log what they should: FAILS the number of failed addresses, FIRST the lowest of them
and its kind (R187). -/
structure State.Tallied (s : State) (n : Nat) : Prop where
  fails : s.fails = (failedUnits s.unitstat n).length
  first : (s.first.map fun p => (p.1, p.2.code)) =
    (failedUnits s.unitstat n).head?.map fun a => (a, (bufGet .unitstat s.unitstat a).getD 0)

theorem State.Tallied.unitLogged {s : State} (h : s.Tallied s.idx) (hwf : Memory.wf .unitstat s.unitstat = true)
    (k : Kind) : (s.unitLogged k).Tallied (s.idx + 1) := by
  have hput := fun j => bufGet_bufPut .unitstat s.unitstat s.idx j k.code hwf
  have hfailed := failedUnits_succ hwf s.idx k
  have hold : ((failedUnits s.unitstat s.idx).head?.map fun a =>
      (a, (bufGet .unitstat (bufPut .unitstat s.unitstat s.idx k.code) a).getD 0)) =
      (failedUnits s.unitstat s.idx).head?.map fun a => (a, (bufGet .unitstat s.unitstat a).getD 0) := by
    refine Option.map_congr fun a ha => ?_
    rw [hput, if_neg (Nat.ne_of_lt (mem_failedUnits_lt (List.mem_of_mem_head? ha)))]
  refine ⟨?_, ?_⟩
  · rw [unitLogged_fails, unitLogged_unitstat, hfailed, h.fails]
    split_ifs <;> simp
  · rw [unitLogged_first, unitLogged_unitstat, hfailed, List.head?_append]
    by_cases hk : k = .success
    · rw [if_neg (by simp [hk]), if_pos hk, List.head?_nil, Option.or_none, hold]
      exact h.first
    · cases hf : s.first with
      | none =>
        have hnone : (failedUnits s.unitstat s.idx).head? = none := by
          have hfirst := h.first
          rw [hf, Option.map_none] at hfirst
          exact Option.map_eq_none_iff.1 hfirst.symm
        rw [if_pos ⟨hk, rfl⟩, if_neg hk, hnone]
        simp [hput]
      | some p =>
        have hfirst := h.first
        rw [hf] at hfirst
        rw [if_neg (by simp), hfirst]
        cases hhead : (failedUnits s.unitstat s.idx).head? with
        | none => rw [hhead] at hfirst; cases hfirst
        | some a =>
          rw [hhead] at hold
          exact hold.symm

/-! The record of a sweep. -/

/-- The sweep `code`, issued at `s`, with the addresses below `n` attempted and logged; ATTEMPTS is `a`. -/
structure State.Swept (s : State) (code : Byte) (n : Nat) (a : Word) (u : State) : Prop where
  cmd     : u.cmd = code
  latch   : u.latch = s.regs
  regs    : u.regs = s.regs
  status  : u.status = statusBusy
  inputs  : u.inputs = []
  wf      : Memory.wf .unitstat u.unitstat = true
  tallied : u.Tallied n
  logged  : ∀ j, j < n → ∃ v : Byte, bufGet .unitstat u.unitstat j = some v ∧ v.toNat ≤ 2
  fresh   : ∀ j, n ≤ j → bufGet .unitstat u.unitstat j = some 0xFF
  results : u.res = resultsOf .success 0 0 a s.res.lastStatus 0x00 0 (BitVec.ofNat 16 n)

/-- The record speaks of these fields only. -/
theorem State.Swept.update {s u v : State} {code : Byte} {n : Nat} {a : Word} (h : s.Swept code n a u)
    (hcmd : v.cmd = u.cmd := by rfl) (hlatch : v.latch = u.latch := by rfl) (hregs : v.regs = u.regs := by rfl)
    (hstatus : v.status = u.status := by rfl) (hinputs : v.inputs = u.inputs := by rfl)
    (hunit : v.unitstat = u.unitstat := by rfl) (hfails : v.fails = u.fails := by rfl)
    (hfirst : v.first = u.first := by rfl) (hres : v.res = u.res := by rfl) : s.Swept code n a v where
  cmd := hcmd.trans h.cmd
  latch := hlatch.trans h.latch
  regs := hregs.trans h.regs
  status := hstatus.trans h.status
  inputs := hinputs.trans h.inputs
  wf := hunit ▸ h.wf
  tallied := ⟨by rw [hfails, hunit]; exact h.tallied.fails, by rw [hfirst, hunit]; exact h.tallied.first⟩
  logged := by rw [hunit]; exact h.logged
  fresh := by rw [hunit]; exact h.fresh
  results := hres.trans h.results

/-- A sweep that has just been entered has attempted nothing. -/
theorem swept_entered {s : State} {i : Instr} (hs : i = .ssweepw ∨ i = .ssweepr) (hi : s.inputs = []) :
    s.Swept i.code 0 0 (s.entered i) := by
  have hunit : (s.entered i).unitstat = [] := by rcases hs with rfl | rfl <;> rfl
  refine ⟨rfl, rfl, rfl, rfl, hi, ?_, ⟨rfl, rfl⟩, fun j hj => absurd hj (Nat.not_lt_zero j), fun j _ => ?_, rfl⟩
  · rw [hunit]
    exact wf_nil _
  · rw [hunit]
    rfl

/-- The kind of a unit as its log entry (R32). -/
theorem code_toNat_le_of_ofUnit {k : Kind} (hk : k.ofUnit = true) : k.code.toNat ≤ 2 := by
  rcases (ofUnit_iff k).1 hk with rfl | rfl | rfl <;> decide

/-- A unit that is logged extends the record by its address. -/
theorem State.Swept.unitLogged {s u : State} {code : Byte} {a : Word} {n : Nat} (h : s.Swept code n a u)
    (hidx : u.idx = n) (hn : n < 128) {k : Kind} (hk : k.ofUnit = true) : s.Swept code (n + 1) a (u.unitLogged k) := by
  subst hidx
  have hput := fun j => bufGet_bufPut .unitstat u.unitstat u.idx j k.code h.wf
  refine ⟨h.cmd, h.latch, h.regs, h.status, h.inputs, wf_bufPut _ _ _ _ h.wf hn, h.tallied.unitLogged h.wf k,
    fun j hj => ?_, fun j hj => ?_, ?_⟩
  · rw [unitLogged_unitstat, hput]
    split_ifs with he
    · exact ⟨_, rfl, code_toNat_le_of_ofUnit hk⟩
    · exact h.logged j (by omega)
  · rw [unitLogged_unitstat, hput, if_neg (by omega)]
    exact h.fresh j (by omega)
  · rw [unitLogged_res, h.results]
    rfl

/-! The end of a sweep. -/

/-- The way on from a logged unit: the next address, or the end (R187, R188). -/
def State.unitNext (s : State) : State :=
  if s.idx + 1 < s.latch.devSize.toNat then { s with idx := s.idx + 1, seq := .sweepNext } else s.sweepEnd

theorem unitEnd_eq (s : State) (k : Kind) : s.unitEnd k = (s.unitLogged k).unitNext := rfl

theorem flagsAtEnd_zero_partialFailure : flagsAtEnd 0x00 .partialFailure = 0x00 := by decide

/-- The end of a sweep shows what the log says (R187, R188, R234). -/
theorem State.Swept.sweepEnd_res {s u : State} {code : Byte} {n : Nat} {a : Word} (h : s.Swept code n a u) :
    u.sweepEnd.res = sweepResults u.unitstat n a s.res.lastStatus := by
  obtain ⟨hfails, hfirst⟩ := h.tallied
  unfold State.sweepEnd sweepResults
  cases hf : u.first with
  | none =>
    rw [hf, Option.map_none] at hfirst
    have hnil : failedUnits u.unitstat n = [] := List.head?_eq_none_iff.1 (Option.map_eq_none_iff.1 hfirst.symm)
    rw [hnil, List.length_nil] at hfails
    simp only [finish_res, hnil, hfails, h.results]
    rw [← flagsAtEnd_zero_success]
    rfl
  | some p =>
    cases hl : failedUnits u.unitstat n with
    | nil => rw [hf, hl] at hfirst; cases hfirst
    | cons j others =>
      rw [hf, hl] at hfirst
      obtain ⟨hj, hcode⟩ : p.1 = j ∧ p.2.code = (bufGet .unitstat u.unitstat j).getD 0 := by simpa using hfirst
      rw [hl, List.length_cons] at hfails
      simp only [finishPartial_res, hfails, h.results, hj, hcode]
      rw [← flagsAtEnd_zero_partialFailure]
      rfl

/-- The end of a sweep keeps everything but the results, STATUS and SEQ. -/
theorem sweepEnd_keeps (s : State) :
    s.sweepEnd.status = statusDone ∧ s.sweepEnd.seq = .idle ∧ s.sweepEnd.regs = s.regs ∧
      s.sweepEnd.unitstat = s.unitstat ∧ s.sweepEnd.dbuf = s.dbuf ∧ s.sweepEnd.hist = s.hist := by
  unfold State.sweepEnd
  dsimp only
  split <;> exact ⟨rfl, rfl, rfl, rfl, rfl, rfl⟩

/-! SSWEEPR, address by address. -/

/-- The answer to a read command is taken as the value it carries, or as a failure (R76, R103, R181). -/
theorem readAnswered_answer {s t : State} {p : List Byte} {d : Bool} (hp : p.length = 4) :
    State.readAnswered (s.answer (.transceive p d)) t =
      match readValueOf s.rawAnswer with
      | some v => t.readDone v
      | none => t.readFailed := by
  unfold State.answer
  generalize s.rawAnswer = a
  by_cases hreply : isReplyOf p.length a
  · rw [if_pos (shapeOk_transceive_iff.2 hreply)]
    obtain ⟨r, n, hlen, -, rfl⟩ := hreply
    rw [hp] at hlen
    obtain ⟨r0, r1, r2, r3, rfl⟩ : ∃ r0 r1 r2 r3, r = [r0, r1, r2, r3] := by
      match r, hlen with
      | [r0, r1, r2, r3], _ => exact ⟨r0, r1, r2, r3, rfl⟩
    rw [readAnswered_of_reply]
    by_cases h4 : n = 4
    · subst h4
      rfl
    · have hnone : readValueOf (.reply [r0, r1, r2, r3] n) = none := by
        unfold readValueOf
        split
        next h => cases h; exact absurd rfl h4
        next => rfl
      rw [if_neg h4, hnone]
  · rw [if_neg (shapeOk_transceive_iff.not.2 hreply), readAnswered_err]
    have hnone : readValueOf a = none := by
      unfold readValueOf
      split
      next => exact absurd ⟨_, 4, by rw [hp]; rfl, hp.symm.le, rfl⟩ hreply
      next => rfl
    rw [hnone]

/-- SSWEEPR, issued at `s`, with the addresses that the answers stand for attempted (R188, R189). -/
structure State.ReadSwept (s : State) (answers : List Answer) (u : State) : Prop where
  swept   : s.Swept 0x14 answers.length 0 u
  entries : ∀ a ans, answers[a]? = some ans →
    bufGet .unitstat u.unitstat a = some (if (readValueOf ans).isSome then 0 else 1)
  bytes   : ∀ a, bufGet .dbuf u.dbuf a = (answers[a]?.bind readValueOf).or (bufGet .dbuf s.dbuf a)
  hist    : u.hist = s.hist ++ answers.mapIdx fun a ans => readCommandEvent (BitVec.ofNat 8 a) ans

/-- A unit's own entry is the new one, the entries before it are as before. -/
theorem State.ReadSwept.unitLogged {s u v : State} {answers : List Answer} {ans : Answer} {k : Kind}
    (h : s.ReadSwept answers u) (hidx : u.idx = answers.length) (hn : answers.length < 128)
    (hcode : k.ofUnit = true ∧ k.code = if (readValueOf ans).isSome then 0 else 1)
    (hswept : s.Swept 0x14 answers.length 0 v) (hvidx : v.idx = u.idx) (hunit : v.unitstat = u.unitstat)
    (hbytes : ∀ j, bufGet .dbuf v.dbuf j =
      if j = u.idx then (readValueOf ans).or (bufGet .dbuf u.dbuf j) else bufGet .dbuf u.dbuf j)
    (hhist : v.hist = u.hist ++ [readCommandEvent (BitVec.ofNat 8 u.idx) ans]) :
    s.ReadSwept (answers ++ [ans]) (v.unitLogged k) := by
  have hget : ∀ j, (answers ++ [ans])[j]? = if j = answers.length then some ans else answers[j]? := fun j => by
    rw [List.getElem?_append]
    rcases Nat.lt_trichotomy j answers.length with hj | hj | hj
    · rw [if_pos hj, if_neg (by omega)]
    · subst hj; simp
    · rw [if_neg (by omega), if_neg (by omega), List.getElem?_eq_none (by simp; omega), List.getElem?_eq_none (by omega)]
  refine ⟨?_, fun j x hj => ?_, fun j => ?_, ?_⟩
  · rw [List.length_append, List.length_singleton]
    exact hswept.unitLogged (hvidx.trans hidx) hn hcode.1
  · rw [hget] at hj
    rw [unitLogged_unitstat, hunit, hvidx, bufGet_bufPut _ _ _ _ _ h.swept.wf, hidx]
    split_ifs at hj with he
    · cases hj
      rw [if_pos he, hcode.2]
    · rw [if_neg he]
      exact h.entries j x hj
  · rw [unitLogged_dbuf, hbytes, hget, hidx]
    split_ifs with he
    · rw [h.bytes, he, List.getElem?_eq_none (Nat.le_refl _)]
      rfl
    · exact h.bytes j
  · rw [unitLogged_hist, hhist, h.hist, hidx, List.append_assoc, List.mapIdx_concat]

theorem step_sweepNext {s : State} (hi : s.inputs = []) (hb : s.busy = true) (hq : s.seq = .sweepNext) :
    step s = .next s.nextUnit := by
  rw [step_busy hi hb]
  simp only [seqStep, State.nextMove, hq]

/-- Seven bits hold the address of every unit (R99, R186). -/
theorem setWidth_ofNat_seven {n : Nat} (h : n < 128) : (BitVec.ofNat 7 n).setWidth 8 = BitVec.ofNat 8 n := by
  refine BitVec.eq_of_toNat_eq ?_
  rw [BitVec.toNat_setWidth, BitVec.toNat_ofNat, BitVec.toNat_ofNat]
  omega

/-- One address of SSWEEPR: on to its read command, whose answer gives its entry and its byte (R188). -/
theorem read_unit_run {s u : State} {answers : List Answer} (h : s.ReadSwept answers u) (hq : u.seq = .sweepNext)
    (hidx : u.idx = answers.length) (hn : answers.length < 128) :
    ∃ (ans : Answer) (w : State), s.ReadSwept (answers ++ [ans]) w ∧ w.idx = answers.length ∧
      runFor 2 u = .next w.unitNext := by
  have hc : u.cmd = 0x14 := h.swept.cmd
  have hbusy := busy_of_status h.swept.status
  have hseq : u.nextUnit.seq = .rdCmd := if_neg ((inSweepWrite_iff u).not.2 (by rw [hc]; decide))
  have haddr : u.nextUnit.unitAddr = BitVec.ofNat 7 u.idx := unitAddr_of_sweep u.nextUnit (.inr hc)
  have hread : step u.nextUnit = .next (State.readAnswered
      (u.nextUnit.answer (.transceive (encode (.serRead (BitVec.ofNat 7 u.idx))) true))
      (u.nextUnit.afterCall (.transceive (encode (.serRead (BitVec.ofNat 7 u.idx))) true))) := by
    rw [step_of_frame (s := u.nextUnit) h.swept.inputs hbusy (nextMove_rdCmd hseq), haddr]
    exact handFrame_turn (decide_eq_true hseq)
  rw [encode_serRead, setWidth_ofNat_seven (by omega), readAnswered_answer rfl] at hread
  have hrun := (runFor_succ_of_step (step_sweepNext h.swept.inputs hbusy hq)).trans (runFor_one_of_step hread)
  have hswept : s.Swept 0x14 answers.length 0
      (u.nextUnit.afterCall (.transceive [0x03, BitVec.ofNat 8 u.idx, 0x00, 0x00] true)) := h.swept.update
  cases hv : readValueOf u.nextUnit.rawAnswer with
  | none =>
    rw [hv] at hrun
    refine ⟨_, _, h.unitLogged (ans := u.nextUnit.rawAnswer) (k := .transportError) hidx hn ⟨rfl, by rw [hv]; rfl⟩ hswept
      rfl rfl (fun j => ?_) rfl, hidx, hrun.trans (congrArg _ (readFailed_of_sweep (by exact hc)))⟩
    rw [hv, Option.none_or, ite_self]
    rfl
  | some v =>
    rw [hv] at hrun
    refine ⟨_, _, h.unitLogged (ans := u.nextUnit.rawAnswer) (k := .success)
      (v := { u.nextUnit.afterCall (.transceive [0x03, BitVec.ofNat 8 u.idx, 0x00, 0x00] true) with
        dbuf := bufPut .dbuf u.dbuf u.idx v }) hidx hn ⟨rfl, by rw [hv]; rfl⟩ hswept.update
      rfl rfl (fun j => ?_) rfl, hidx, hrun.trans (congrArg _ (readDone_of_sweep (by exact hc) v))⟩
    rw [hv, Option.some_or, bufGet_dbuf, memLookup_bufPut_dbuf, bufGet_dbuf]

/-- The addresses of SSWEEPR short of the last (R188, R189). -/
theorem read_units_run {s : State} (hi : s.inputs = []) (hv : ¬ violates s.regs .ssweepr) (n : Nat)
    (hn : n < s.regs.devSize.toNat) :
    ∃ (u : State) (answers : List Answer), answers.length = n ∧ s.ReadSwept answers u ∧ u.seq = .sweepNext ∧
      u.idx = answers.length ∧ runFor (2 * n) (s.entered .ssweepr) = .next u := by
  have hle := ((devSizeLegal_iff _).1 ((checkOf_iff .ssweepr s.regs).2 hv)).2
  induction n with
  | zero =>
    refine ⟨_, [], rfl, ⟨swept_entered (.inr rfl) hi, nofun, fun a => ?_, (List.append_nil _).symm⟩, rfl, rfl, rfl⟩
    simp only [List.getElem?_nil, Option.bind_none, Option.none_or]
    rfl
  | succ n ih =>
    obtain ⟨u, answers, hlen, hu, hq, hidx, hrun⟩ := ih (by omega)
    obtain ⟨ans, w, hw, hwidx, hunit⟩ := read_unit_run hu hq hidx (by omega)
    have hnext : w.unitNext = { w with idx := w.idx + 1, seq := .sweepNext } :=
      if_pos (by rw [hwidx, hw.swept.latch]; omega)
    rw [hnext] at hunit
    refine ⟨{ w with idx := w.idx + 1, seq := .sweepNext }, answers ++ [ans], by simp [hlen],
      ⟨hw.swept.update, hw.entries, hw.bytes, hw.hist⟩, rfl, ?_, (runFor_add 2 hrun).trans hunit⟩
    change w.idx + 1 = _
    rw [hwidx, List.length_append, List.length_singleton]

/-- Settles O54: the addresses short of the last, the last, and the end with what the log says. -/
theorem readSweepAttemptsEveryAddress : Obligations.ReadSweepAttemptsEveryAddress := by
  intro s hb hi _ hv
  obtain ⟨hpos, hle⟩ := (devSizeLegal_iff _).1 ((checkOf_iff .ssweepr s.regs).2 hv)
  obtain ⟨n, hn⟩ : ∃ n, s.regs.devSize.toNat = n + 1 := Nat.exists_eq_succ_of_ne_zero (Nat.ne_of_gt hpos)
  have hexec : exec .ssweepr s = .next (s.entered .ssweepr) :=
    (legalCommandsEnterTheirFirstState s hb).2.2.2.2.2.2.2.1 hv
  obtain ⟨u, answers, hlen, hu, hq, hidx, hrun⟩ := read_units_run hi hv n (by omega)
  obtain ⟨ans, w, hw, hwidx, hunit⟩ := read_unit_run hu hq hidx (by omega)
  have hend : w.unitNext = w.sweepEnd := if_neg (by rw [hwidx, hw.swept.latch]; omega)
  have hres := hw.swept.sweepEnd_res
  obtain ⟨hstatus, hidle, hregs, hlog, hdbuf, hhist⟩ := sweepEnd_keeps w
  have hlen' : (answers ++ [ans]).length = s.regs.devSize.toNat := by
    rw [List.length_append, List.length_singleton, hlen, hn]
  rw [hend] at hunit
  rw [hlen'] at hres
  have hsteps : 2 * s.regs.devSize.toNat = 2 * n + 2 := by omega
  refine ⟨_, w.sweepEnd, answers ++ [ans], hexec, hsteps ▸ (runFor_add 2 hrun).trans hunit, hstatus, hidle,
    hregs.trans hw.swept.regs, by rw [hlog]; exact hres, hlen', fun a x ha => ⟨?_, ?_⟩, fun a ha => ⟨?_, ?_⟩,
    hhist.trans hw.hist⟩
  · rw [hlog]
    exact hw.entries a x ha
  · rw [hdbuf, hw.bytes, ha]
    rfl
  · rw [hlog]
    exact hw.swept.fresh a (hlen'.le.trans ha)
  · rw [hdbuf, hw.bytes, List.getElem?_eq_none (hlen'.le.trans ha)]
    rfl

end Sys2Proof.Machine
end

section
/-!
PROOFS. SSWEEPW (spec/42_serial_eeprom.md R187, R189): what each of its moves keeps of the record of the sweep and of the
write commands sent, whatever the Transport answers, and with it the end of the sweep.
-/

namespace Sys2Proof.Machine

open Sys2Proof

/-! The ends of the frames, up to the fields that they write. -/

/-- A write command ends its unit with no attempt made, or goes on to the poll or the cleanup (R174, R175). -/
theorem writeCommandAnswered_cases (a : Answer) (s : State) :
    State.writeCommandAnswered a s = State.writeEnd { s with att := 0 } .transportError ∨
      ∃ o q, (q = .wrPoll ∨ q = .wrCleanup) ∧
        State.writeCommandAnswered a s = { s with att := 0, outcome := o, seq := q } := by
  unfold State.writeCommandAnswered
  dsimp only
  split_ifs
  · exact .inr ⟨_, _, .inl rfl, rfl⟩
  · exact .inr ⟨_, _, .inr rfl, rfl⟩
  · exact .inr ⟨_, _, .inr rfl, rfl⟩
  · exact .inl rfl

/-- A chunk goes on to the next one or to the cleanup (R176). -/
theorem pollAnswered_cases (a : Answer) (s : State) :
    ∃ o q, (q = .wrPoll ∨ q = .wrCleanup) ∧
      State.pollAnswered a s = { s with att := s.att + 1, outcome := o, seq := q } := by
  unfold State.pollAnswered
  dsimp only
  split
  · exact ⟨_, _, .inr rfl, rfl⟩
  · split_ifs
    · exact ⟨_, _, .inr rfl, rfl⟩
    · exact ⟨_, _, .inl rfl, rfl⟩
    · exact ⟨_, _, .inr rfl, rfl⟩

/-! The write commands of a sweep. -/

/-- The write commands of the first `n` addresses: address byte and datum (R101, R187). -/
def sentCommands (data : List Byte) (n : Nat) : List (Byte × Byte) :=
  (data.take n).mapIdx fun a d => (0x80 ||| BitVec.ofNat 8 a, d)

theorem sentCommands_succ {data : List Byte} {n : Nat} {d : Byte} (h : data[n]? = some d) :
    sentCommands data (n + 1) = sentCommands data n ++ [(0x80 ||| BitVec.ofNat 8 n, d)] := by
  obtain ⟨hlt, -⟩ := List.getElem?_eq_some_iff.1 h
  rw [sentCommands, List.take_add_one, h, Option.toList_some, List.mapIdx_concat, List.length_take,
    Nat.min_eq_left hlt.le, sentCommands]

/-- SSWEEPW, issued at `s`, with `n` addresses logged and the write commands of `sent` addresses in the history. -/
structure State.WriteSwept (s : State) (data : List Byte) (sent n : Nat) (u : State) : Prop where
  swept : ∃ a, s.Swept 0x13 n a u
  dbuf  : u.dbuf = s.dbuf
  hist  : ∃ events, u.hist = s.hist ++ events ∧ events.filterMap writeCommandOf = sentCommands data sent

/-- The record speaks of these fields only. -/
theorem State.WriteSwept.update {s u v : State} {data : List Byte} {sent n : Nat} (h : s.WriteSwept data sent n u)
    (hcmd : v.cmd = u.cmd := by rfl) (hlatch : v.latch = u.latch := by rfl) (hregs : v.regs = u.regs := by rfl)
    (hstatus : v.status = u.status := by rfl) (hinputs : v.inputs = u.inputs := by rfl)
    (hunit : v.unitstat = u.unitstat := by rfl) (hfails : v.fails = u.fails := by rfl)
    (hfirst : v.first = u.first := by rfl) (hres : v.res = u.res := by rfl) (hdbuf : v.dbuf = u.dbuf := by rfl)
    (hhist : v.hist = u.hist := by rfl) : s.WriteSwept data sent n v := by
  obtain ⟨⟨a, hs⟩, hd, hh⟩ := h
  exact ⟨⟨a, hs.update hcmd hlatch hregs hstatus hinputs hunit hfails hfirst hres⟩, hdbuf.trans hd,
    by rw [hhist]; exact hh⟩

/-- A call adds its own event, a write command or none. -/
theorem State.WriteSwept.call {s u : State} {data : List Byte} {sent sent' n : Nat} (h : s.WriteSwept data sent n u)
    (c : Call) (hc : sentCommands data sent' = sentCommands data sent ++ (writeCommandOf (.call c u.rawAnswer)).toList) :
    s.WriteSwept data sent' n (u.afterCall c) := by
  obtain ⟨⟨a, hs⟩, hd, events, hh, hsent⟩ := h
  refine ⟨⟨a, hs.update⟩, hd, events ++ [.call c u.rawAnswer], ?_, ?_⟩
  · rw [afterCall_hist, hh, List.append_assoc]
  · rw [List.filterMap_append, hsent, hc]
    cases hw : writeCommandOf (.call c u.rawAnswer) <;> simp [hw]

/-! What every move of SSWEEPW keeps. -/

/-- SSWEEPW as it ends: every address logged, every write command sent. -/
structure State.WriteDone (s : State) (data : List Byte) (u : State) : Prop where
  regs    : u.regs = s.regs
  dbuf    : u.dbuf = s.dbuf
  results : u.res = sweepResults u.unitstat s.regs.devSize.toNat u.res.attempts s.res.lastStatus
  logged  : ∀ a, a < s.regs.devSize.toNat → ∃ v : Byte, bufGet .unitstat u.unitstat a = some v ∧ v.toNat ≤ 2
  fresh   : ∀ a, s.regs.devSize.toNat ≤ a → bufGet .unitstat u.unitstat a = some 0xFF
  hist    : ∃ events, u.hist = s.hist ++ events ∧
    events.filterMap writeCommandOf = sentCommands data s.regs.devSize.toNat

/-- SSWEEPW, issued at `s`, at any moment: before the write command of the address in hand, after it, or at the end. -/
def State.WriteSweep (s : State) (data : List Byte) (u : State) : Prop :=
  ((u.seq = .sweepNext ∨ u.seq = .wrCmd) ∧ s.WriteSwept data u.idx u.idx u) ∨
    ((u.seq = .wrPoll ∨ u.seq = .wrCleanup) ∧ s.WriteSwept data (u.idx + 1) u.idx u) ∨
    (u.seq = .idle ∧ s.WriteDone data u)

theorem sweepResults_attempts (m : Memory) (n : Nat) (a : Word) (l : Byte) : (sweepResults m n a l).attempts = a := by
  unfold sweepResults
  split <;> rfl

/-- The end of a unit whose write command was sent leads to the next address, or to the end of the sweep (R187, R189). -/
theorem writeSweep_writeEnd {s u : State} {data : List Byte} (h : s.WriteSwept data (u.idx + 1) u.idx u)
    (hlt : u.idx < s.regs.devSize.toNat) (hle : s.regs.devSize.toNat ≤ 128) {k : Kind} (hk : k.ofUnit = true) :
    s.WriteSweep data (u.writeEnd k) := by
  obtain ⟨⟨a, hs⟩, hdbuf, hhist⟩ := h
  have hattempts : s.Swept 0x13 u.idx (BitVec.ofNat 32 u.att) { u with res.attempts := BitVec.ofNat 32 u.att } :=
    { hs with
      tallied := ⟨hs.tallied.fails, hs.tallied.first⟩
      results := congrArg (fun r : ResultRegs => { r with attempts := BitVec.ofNat 32 u.att }) hs.results }
  have hlogged := hattempts.unitLogged rfl (hlt.trans_le hle) hk
  rw [writeEnd_of_sweep hs.cmd, unitEnd_eq, State.unitNext]
  split_ifs with hnext
  · exact .inl ⟨.inl rfl, ⟨_, hlogged.update⟩, hdbuf, hhist⟩
  · have hall : u.idx + 1 = s.regs.devSize.toNat := by
      have hnext : ¬ u.idx + 1 < u.latch.devSize.toNat := hnext
      rw [hs.latch] at hnext
      omega
    have hres := hlogged.sweepEnd_res
    obtain ⟨-, hidle, hregs, hlog, hkept, hkepthist⟩ :=
      sweepEnd_keeps (State.unitLogged { u with res.attempts := BitVec.ofNat 32 u.att } k)
    refine .inr (.inr ⟨hidle, hregs.trans hlogged.regs, hkept.trans hdbuf, ?_, fun j hj => ?_, fun j hj => ?_, ?_⟩)
    · rw [hlog, hres, sweepResults_attempts, hall]
    · rw [hlog]
      exact hlogged.logged j (by omega)
    · rw [hlog]
      exact hlogged.fresh j (by omega)
    · rw [hkepthist, ← hall]
      exact hhist

/-- Every move of SSWEEPW keeps its record; the moves of other sequencer states than the one it stands at do not occur. -/
theorem writeSweep_seqMove {s u t : State} {data : List Byte} (hle : s.regs.devSize.toNat ≤ 128)
    (hdata : dbufRead s.dbuf 0 s.regs.devSize.toNat = some data) (hinv : u.inv = true) (hq0 : u.seq ≠ .idle)
    (h : s.WriteSweep data u) (hm : SeqMove u t) : s.WriteSweep data t := by
  have hseq := ((inv_iff u).1 hinv).2.2.2
  have inHand : ∀ {sent : Nat}, s.WriteSwept data sent u.idx u → u.onWrite = true → u.idx < s.regs.devSize.toNat := by
    rintro sent ⟨⟨a, hs⟩, -, -⟩ hw
    have hsweep := onSweep_of_onWrite hw ((inSweepWrite_iff u).2 hs.cmd)
    obtain ⟨-, -, hlt, -⟩ := (onSweep_iff u).1 hsweep
    rwa [hs.latch] at hlt
  rcases h with ⟨hq, h⟩ | ⟨hq, h⟩ | ⟨hq, -⟩
  · rcases hq with hq | hq
    · cases hm with
      | nextUnit =>
        obtain ⟨⟨a, hs⟩, -, -⟩ := id h
        exact .inl ⟨.inr (if_pos ((inSweepWrite_iff u).2 hs.cmd)), h.update⟩
      | _ => simp_all
    · simp only [State.seqOk, hq] at hseq
      have hlt := inHand h hseq
      cases hm with
      | write _ d hd =>
        obtain ⟨⟨a, hs⟩, hdbuf, -⟩ := id h
        have hc : u.cmd = 0x13 := hs.cmd
        rw [unitData_of_sweep hc, hdbuf, bufGet_dbuf] at hd
        have hbyte : data[u.idx]? = some d := by
          rw [← ((dbufRead_eq_some_iff _ _ _ _).1 hdata).2 u.idx hlt, Nat.zero_add, hd]
        have hcall := h.call (sent' := u.idx + 1) (.transceive (encode (.serWrite u.unitAddr d)) true) (by
          rw [sentCommands_succ hbyte, unitAddr_of_sweep u (.inl hc)]
          change _ = _ ++ [(0x80 ||| (BitVec.ofNat 7 u.idx).setWidth 8, d)]
          rw [setWidth_ofNat_seven (by omega)])
        rcases writeCommandAnswered_cases (u.answer (.transceive (encode (.serWrite u.unitAddr d)) true))
          (u.afterCall (.transceive (encode (.serWrite u.unitAddr d)) true)) with he | ⟨o, q, hq', he⟩
        · rw [he]
          exact writeSweep_writeEnd (u := { u.afterCall _ with att := 0 }) hcall.update hlt hle rfl
        · rw [he]
          exact .inr (.inl ⟨hq', hcall.update⟩)
      | _ => simp_all
  · rcases hq with hq | hq
    · cases hm with
      | poll =>
        have hcall := h.call (sent' := u.idx + 1) (.transceive (encode .serPoll) false) (List.append_nil _).symm
        obtain ⟨o, q, hq', he⟩ := pollAnswered_cases (u.answer (.transceive (encode .serPoll) false))
          (u.afterCall (.transceive (encode .serPoll) false))
        rw [he]
        exact .inr (.inl ⟨hq', hcall.update⟩)
      | _ => simp_all
    · simp only [State.seqOk, hq, Bool.and_eq_true] at hseq
      obtain ⟨⟨hw, -⟩, ho⟩ := hseq
      cases hm with
      | cleanup =>
        have hcall := h.call (sent' := u.idx + 1) (.transceive (encode .serIdle) true) (List.append_nil _).symm
        refine writeSweep_writeEnd (u := u.afterCall _) hcall (inHand h hw) hle ?_
        split_ifs
        · rfl
        · exact ho
      | _ => simp_all
  · exact absurd hq hq0

/-- Settles O55: the record holds when the sweep is entered and at every move, so it holds at the end. -/
theorem writeSweepAttemptsEveryAddress : Obligations.WriteSweepAttemptsEveryAddress := by
  intro s data hb hi hinv hv hdata
  have hc := (checkOf_iff .ssweepw s.regs).2 hv
  obtain ⟨-, hle⟩ := (devSizeLegal_iff _).1 hc
  have hl : launchable s .ssweepw := fun _ => by rw [hdata]; rfl
  have hexec : exec .ssweepw s = .next (s.entered .ssweepw) :=
    (legalCommandsEnterTheirFirstState s hb).2.2.2.2.2.2.1 hv hl
  have hentered : (s.entered .ssweepw).inv = true :=
    issued_inv (i := .ssweepw) hinv (by decide) (.entered nofun hc rfl hl)
  have hstart : s.WriteSweep data (s.entered .ssweepw) :=
    .inl ⟨.inl rfl, ⟨0, swept_entered (.inl rfl) hi⟩, rfl, [], (List.append_nil _).symm, rfl⟩
  obtain ⟨n, u, -, hrun, hstatus, hidle, -, -, hend⟩ := run_to_end
    (fun u t h hq hP hm => writeSweep_seqMove hle hdata h hq hP hm) hentered nofun hi hstart
  rcases hend with ⟨hq, -⟩ | ⟨hq, -⟩ | ⟨-, hdone⟩
  · rw [hidle] at hq
    rcases hq with hq | hq <;> cases hq
  · rw [hidle] at hq
    rcases hq with hq | hq <;> cases hq
  · obtain ⟨events, hhist, hsent⟩ := hdone.hist
    have hlen := ((dbufRead_eq_some_iff _ _ _ _).1 hdata).1
    rw [sentCommands, List.take_of_length_le hlen.le] at hsent
    exact ⟨_, u, n, events, hexec, hrun, hstatus, hidle, hdone.regs, hdone.dbuf, hdone.results, hdone.logged,
      hdone.fresh, hhist, hsent⟩

end Sys2Proof.Machine
end
